-- ==== Sys2Proof/Word.lean ====
section
/-! DEFINITION. The word types of the block: packet and framebuffer bytes, 16-bit cursor words, 32-bit
source addresses and host register values (00_scope.md R7). Integers inside a command are `Int` or `Nat`,
because R8 makes every intermediate a mathematical integer. -/

namespace Sys2Proof

/-- `u8` of R7. -/
abbrev Byte := BitVec 8

/-- `u16` of R7. -/
abbrev Half := BitVec 16

/-- `u32` of R7: a source address, or the value of a host register. -/
abbrev Word := BitVec 32

end Sys2Proof
end

