-- ==== Sys2Proof/Syntax.lean ====
section
/-! DEFINITION. The commands of the block: one constructor per row of spec/opcode_table.json, with the
operand fields of 30_encoding.md R77 as the packet carries them. A `col` or `bool` field (R74) is its raw
byte, so that an illegal operand value (R79) is a term of the syntax: WellFormed.lean says which are legal,
and the meaning of an illegal one is to complete ILLEGAL. -/

namespace Sys2Proof

/-- A command packet, decoded into its fields (R77). -/
inductive Instr where
  /-- `01`: R222. -/
  | init
  /-- `02 cc`: R102. -/
  | fill (c : Byte)
  /-- `03 addr len`: R104. -/
  | load (addr : Word) (len : Half)
  /-- `04`: R231. -/
  | flush
  /-- `05 vv`: R235. -/
  | setcontrast (v : Byte)
  /-- `06 oo`: R237. -/
  | setdisp (sw : Byte)
  /-- `07`: R239. -/
  | getdisp
  /-- `10 xx yy cc`: R106. -/
  | pixel (x y c : Byte)
  /-- `11 x1 y1 x2 y2 cc`: R121. -/
  | line (x1 y1 x2 y2 c : Byte)
  /-- `12 addr count cc`: R124. -/
  | polyline (addr : Word) (count : Half) (c : Byte)
  /-- `13 x1 y1 x2 y2 cc`: R126. -/
  | rect (x1 y1 x2 y2 c : Byte)
  /-- `14 x1 y1 x2 y2 cc`: R140. -/
  | fillrect (x1 y1 x2 y2 c : Byte)
  /-- `15 x1 y1 x2 y2`: R142. -/
  | invrect (x1 y1 x2 y2 : Byte)
  /-- `16 cx cy rr cc`: R162. -/
  | circle (cx cy r c : Byte)
  /-- `17 cx cy rr cc`: R164. -/
  | fillcircle (cx cy r c : Byte)
  /-- `18 cx cy rr start sweep cc`: R174. -/
  | arc (cx cy r : Byte) (start sweep : Half) (c : Byte)
  /-- `19 cx cy rr start sweep cc`: R175. -/
  | arcrl (cx cy r : Byte) (start sweep : Half) (c : Byte)
  /-- `1A x0 y0 x1 y1 x2 y2 cc`: R148. -/
  | filltri (x0 y0 x1 y1 x2 y2 c : Byte)
  /-- `20 ww hh ff data cw`: R190. -/
  | setfont (w h flags : Byte) (data cw : Word)
  /-- `21 x y`: R194. -/
  | setcursor (x y : Half)
  /-- `22 ch cc`: R201. -/
  | wrchar (ch c : Byte)
  /-- `23 addr cc`: R204. -/
  | wrstr (addr : Word) (c : Byte)
  /-- `28 xx yy addr ww hh cc`: R210. -/
  | bitmap (x y : Byte) (addr : Word) (w h c : Byte)
deriving DecidableEq, Repr

end Sys2Proof
end

