-- ==== Sys2Proof/WellFormed.lean ====
section
/-! DEFINITION. Which commands have only legal operand values (30_encoding.md R79 (b) to (d)). R79 (a), a
reserved opcode, is no term of the syntax: the decoder rejects it. -/

namespace Sys2Proof

/-- A `col` field is `0x00` or `0x01` (R74, R79 (b)). -/
def wfCol (c : Byte) : Bool := c == 0x00#8 || c == 0x01#8

/-- The `bool` field of SETDISP is `0x00` or `0x01` (R74, R79 (c)). -/
def wfBool (b : Byte) : Bool := b == 0x00#8 || b == 0x01#8

/-- The SETFONT fields (R79 (d)): `1 <= w <= 16`, `h >= 1`, and bits 7 to 1 of the flags are 0. -/
def wfFont (w h flags : Byte) : Bool :=
  decide (1 ≤ w.toNat) && decide (w.toNat ≤ 16) && decide (1 ≤ h.toNat) && decide (flags.toNat ≤ 1)

/-- The legal commands (R79). -/
def Instr.wf : Instr → Bool
  | .init => true
  | .fill c => wfCol c
  | .load _ _ => true
  | .flush => true
  | .setcontrast _ => true
  | .setdisp sw => wfBool sw
  | .getdisp => true
  | .pixel _ _ c => wfCol c
  | .line _ _ _ _ c => wfCol c
  | .polyline _ _ c => wfCol c
  | .rect _ _ _ _ c => wfCol c
  | .fillrect _ _ _ _ c => wfCol c
  | .invrect _ _ _ _ => true
  | .circle _ _ _ c => wfCol c
  | .fillcircle _ _ _ c => wfCol c
  | .arc _ _ _ _ _ c => wfCol c
  | .arcrl _ _ _ _ _ c => wfCol c
  | .filltri _ _ _ _ _ _ c => wfCol c
  | .setfont w h flags _ _ => wfFont w h flags
  | .setcursor _ _ => true
  | .wrchar _ c => wfCol c
  | .wrstr _ c => wfCol c
  | .bitmap _ _ _ _ _ c => wfCol c

end Sys2Proof
end

