-- ==== Sys2Proof/Decode.lean ====
section
/-! DEFINITION. Packets (30_encoding.md R70 to R79): their lengths, the decoder from bytes to commands, and
after it the encoder, both written from the field table R77. The decoder rejects a reserved opcode and a
packet of the wrong length by name; illegal operand values are decoded, and the command completes ILLEGAL
(R79, log entry 18). -/

namespace Sys2Proof

/-- The opcode bytes of R77. -/
def opcodeOf : Instr → Byte
  | .init => 0x01#8
  | .fill _ => 0x02#8
  | .load _ _ => 0x03#8
  | .flush => 0x04#8
  | .setcontrast _ => 0x05#8
  | .setdisp _ => 0x06#8
  | .getdisp => 0x07#8
  | .pixel _ _ _ => 0x10#8
  | .line _ _ _ _ _ => 0x11#8
  | .polyline _ _ _ => 0x12#8
  | .rect _ _ _ _ _ => 0x13#8
  | .fillrect _ _ _ _ _ => 0x14#8
  | .invrect _ _ _ _ => 0x15#8
  | .circle _ _ _ _ => 0x16#8
  | .fillcircle _ _ _ _ => 0x17#8
  | .arc _ _ _ _ _ _ => 0x18#8
  | .arcrl _ _ _ _ _ _ => 0x19#8
  | .filltri _ _ _ _ _ _ _ => 0x1A#8
  | .setfont _ _ _ _ _ => 0x20#8
  | .setcursor _ _ => 0x21#8
  | .wrchar _ _ => 0x22#8
  | .wrstr _ _ => 0x23#8
  | .bitmap _ _ _ _ _ _ => 0x28#8

/-- `LEN(op)` of R71, for an assigned opcode; `none` for a reserved one (R78). -/
def assignedLen (op : Byte) : Option Nat :=
  match op.toNat with
  | 0x01 => some 1
  | 0x02 => some 2
  | 0x03 => some 7
  | 0x04 => some 1
  | 0x05 => some 2
  | 0x06 => some 2
  | 0x07 => some 1
  | 0x10 => some 4
  | 0x11 => some 6
  | 0x12 => some 8
  | 0x13 => some 6
  | 0x14 => some 6
  | 0x15 => some 5
  | 0x16 => some 5
  | 0x17 => some 5
  | 0x18 => some 9
  | 0x19 => some 9
  | 0x1A => some 8
  | 0x20 => some 12
  | 0x21 => some 5
  | 0x22 => some 3
  | 0x23 => some 6
  | 0x28 => some 10
  | _ => none

/-- `LEN(op)` of R71: the packet length in bytes, opcode included; "any other byte" is a packet of 1. -/
def packetLen (op : Byte) : Nat := (assignedLen op).getD 1

/-- The reserved opcodes (R78). -/
def reservedOpcode (op : Byte) : Bool := (assignedLen op).isNone

/-- A `u16` field, least significant byte first (R74). -/
def le16 (b0 b1 : Byte) : Half := b1 ++ b0

/-- A `u32` field, least significant byte first (R74). -/
def le32 (b0 b1 b2 b3 : Byte) : Word := b3 ++ b2 ++ b1 ++ b0

/-- Why the decoder rejects a byte string. -/
inductive DecodeError where
  /-- No byte at all. -/
  | empty
  /-- The first byte is a reserved opcode (R78). -/
  | reserved (op : Byte)
  /-- The first byte is an assigned opcode and the packet does not have its length (R71). -/
  | wrongLength (op : Byte)
deriving DecidableEq, Repr

/-- The command of opcode `op` with operand bytes `ops` (the table R77). -/
def decodeOperands (op : Nat) (ops : List Byte) : Option Instr :=
  match op, ops with
  | 0x01, [] => some .init
  | 0x02, [c] => some (.fill c)
  | 0x03, [a0, a1, a2, a3, l0, l1] => some (.load (le32 a0 a1 a2 a3) (le16 l0 l1))
  | 0x04, [] => some .flush
  | 0x05, [v] => some (.setcontrast v)
  | 0x06, [sw] => some (.setdisp sw)
  | 0x07, [] => some .getdisp
  | 0x10, [x, y, c] => some (.pixel x y c)
  | 0x11, [x1, y1, x2, y2, c] => some (.line x1 y1 x2 y2 c)
  | 0x12, [a0, a1, a2, a3, n0, n1, c] => some (.polyline (le32 a0 a1 a2 a3) (le16 n0 n1) c)
  | 0x13, [x1, y1, x2, y2, c] => some (.rect x1 y1 x2 y2 c)
  | 0x14, [x1, y1, x2, y2, c] => some (.fillrect x1 y1 x2 y2 c)
  | 0x15, [x1, y1, x2, y2] => some (.invrect x1 y1 x2 y2)
  | 0x16, [cx, cy, r, c] => some (.circle cx cy r c)
  | 0x17, [cx, cy, r, c] => some (.fillcircle cx cy r c)
  | 0x18, [cx, cy, r, s0, s1, w0, w1, c] => some (.arc cx cy r (le16 s0 s1) (le16 w0 w1) c)
  | 0x19, [cx, cy, r, s0, s1, w0, w1, c] => some (.arcrl cx cy r (le16 s0 s1) (le16 w0 w1) c)
  | 0x1A, [x0, y0, x1, y1, x2, y2, c] => some (.filltri x0 y0 x1 y1 x2 y2 c)
  | 0x20, [w, h, f, d0, d1, d2, d3, c0, c1, c2, c3] => some (.setfont w h f (le32 d0 d1 d2 d3) (le32 c0 c1 c2 c3))
  | 0x21, [x0, x1, y0, y1] => some (.setcursor (le16 x0 x1) (le16 y0 y1))
  | 0x22, [ch, c] => some (.wrchar ch c)
  | 0x23, [a0, a1, a2, a3, c] => some (.wrstr (le32 a0 a1 a2 a3) c)
  | 0x28, [x, y, a0, a1, a2, a3, w, h, c] => some (.bitmap x y (le32 a0 a1 a2 a3) w h c)
  | _, _ => none

/-- Decode the bytes of one whole packet (R70, R77). -/
def decodePacket : List Byte → Except DecodeError Instr
  | [] => .error .empty
  | op :: ops =>
    match decodeOperands op.toNat ops with
    | some i => .ok i
    | none => if reservedOpcode op then .error (.reserved op) else .error (.wrongLength op)

/-- Cut the first packet from a byte stream and decode it (R73); the rest of the stream is returned too. -/
def decode (bs : List Byte) : Except DecodeError (Instr × List Byte) :=
  match bs with
  | [] => .error .empty
  | op :: _ =>
    match decodePacket (bs.take (packetLen op)) with
    | .ok i => .ok (i, bs.drop (packetLen op))
    | .error e => .error e

/-- The two bytes of a `u16` field (R74). -/
def bytes16 (v : Half) : List Byte := [v.extractLsb' 0 8, v.extractLsb' 8 8]

/-- The four bytes of a `u32` field (R74). -/
def bytes32 (v : Word) : List Byte :=
  [v.extractLsb' 0 8, v.extractLsb' 8 8, v.extractLsb' 16 8, v.extractLsb' 24 8]

/-- The operand bytes of a command, in the order of R77. -/
def operandBytes : Instr → List Byte
  | .init => []
  | .fill c => [c]
  | .load addr len => bytes32 addr ++ bytes16 len
  | .flush => []
  | .setcontrast v => [v]
  | .setdisp sw => [sw]
  | .getdisp => []
  | .pixel x y c => [x, y, c]
  | .line x1 y1 x2 y2 c => [x1, y1, x2, y2, c]
  | .polyline addr count c => bytes32 addr ++ bytes16 count ++ [c]
  | .rect x1 y1 x2 y2 c => [x1, y1, x2, y2, c]
  | .fillrect x1 y1 x2 y2 c => [x1, y1, x2, y2, c]
  | .invrect x1 y1 x2 y2 => [x1, y1, x2, y2]
  | .circle cx cy r c => [cx, cy, r, c]
  | .fillcircle cx cy r c => [cx, cy, r, c]
  | .arc cx cy r start sweep c => [cx, cy, r] ++ bytes16 start ++ bytes16 sweep ++ [c]
  | .arcrl cx cy r start sweep c => [cx, cy, r] ++ bytes16 start ++ bytes16 sweep ++ [c]
  | .filltri x0 y0 x1 y1 x2 y2 c => [x0, y0, x1, y1, x2, y2, c]
  | .setfont w h flags data cw => [w, h, flags] ++ bytes32 data ++ bytes32 cw
  | .setcursor x y => bytes16 x ++ bytes16 y
  | .wrchar ch c => [ch, c]
  | .wrstr addr c => bytes32 addr ++ [c]
  | .bitmap x y addr w h c => [x, y] ++ bytes32 addr ++ [w, h, c]

/-- The packet of a command (R70): the opcode byte, then the operand bytes. -/
def encode (i : Instr) : List Byte := opcodeOf i :: operandBytes i

/-- Bits `8k+7 .. 8k` of `w`, which carry `nbits` bits of a packet (the opcode table's numbering, byte 0
first); every bit from `nbits` up is 0. -/
def tableByte (nbits w k : Nat) : Byte := BitVec.ofNat 8 ((w % 2 ^ nbits) >>> (8 * k))

/-- The whole packet whose opcode table word is `w`: as many bytes as its opcode byte asks for (R71). -/
def tablePacket (nbits w : Nat) : List Byte :=
  (List.range (packetLen (tableByte nbits w 0))).map (tableByte nbits w)

/-- What the decoder reads from an opcode table word. -/
def decodeTableWord (nbits w : Nat) : Option Instr :=
  match decodePacket (tablePacket nbits w) with
  | .ok i => some i
  | .error _ => none

end Sys2Proof
end

