-- ==== Sys2Proof/Config.lean ====
section
/-! DEFINITION. The implementation parameters of 00_scope.md R5, as plain data, and the one free value of
the model. Which configurations are legal, the derived sizes and the default bytes are in
Machine/Params.lean. -/

namespace Sys2Proof

/-- The parameters of R5. `SrcOK` and `src` are the source memory of the state (log entry 5). `PAGE_CMD(p)`
is a list indexed by the page (log entry 2). `COL_OFFSET` only enters the default low and high column
bytes, so it is an argument of `Config.paged` (Machine/Params.lean). -/
structure Config where
  /-- `WIDTH`: pixel columns. -/
  width : Nat
  /-- `HEIGHT`: pixel rows. -/
  height : Nat
  /-- `INIT_SEQ`: the command bytes of each of the 14 initialization steps, in order (R221). -/
  initSeq : List (List Byte)
  /-- `PAGE_CMD(p)`: the page-select byte of page `p`. -/
  pageCmds : List Byte
  /-- `LOWCOL_CMD`. -/
  lowcolCmd : Byte
  /-- `HIGHCOL_CMD`. -/
  highcolCmd : Byte
  /-- `CONTRAST_CMD`. -/
  contrastCmd : Byte
  /-- `DISP_ON_CMD`. -/
  dispOnCmd : Byte
  /-- `DISP_OFF_CMD`. -/
  dispOffCmd : Byte
deriving DecidableEq, Repr

/-- FREE VALUE (log entry 4): what framebuffer byte `i` holds after the `n`-th reset. R280 and
93_implementation_defined.md S1 leave it unspecified: "any value". -/
opaque Config.freeFbByte (n i : Nat) : Byte

end Sys2Proof
end

