-- ==== Sys2Proof/Machine/Params.lean ====
section
/-! DEFINITION. What a configuration makes of the parameters of 00_scope.md R5: the derived sizes, which
configurations are legal (R6), and the default bytes, which R5 and 45_session_transport.md R221 mark as
taken from general knowledge (93_implementation_defined.md K1 to K4; log entry 1). -/

namespace Sys2Proof

/-- `PAGES` (R5). -/
def Config.pages (cfg : Config) : Nat := cfg.height / 8

/-- `BUF_SIZE` (R5, R52). -/
def Config.bufSize (cfg : Config) : Nat := cfg.pages * cfg.width

/-- The legal configurations (R5, R6): the ranges of `WIDTH` and `HEIGHT`, fourteen steps of `INIT_SEQ`, a
page-select byte for every page, and a contrast byte to read in step 7 (log entry 3). -/
def Config.wf (cfg : Config) : Bool :=
  decide (1 ≤ cfg.width) && decide (cfg.width ≤ 256) && decide (8 ≤ cfg.height) && decide (cfg.height ≤ 256)
    && decide (cfg.height % 8 = 0) && decide (cfg.initSeq.length = 14) && decide (cfg.pageCmds.length = cfg.pages)
    && !(cfg.initSeq.getD 6 []).isEmpty

/-- `PAGE_CMD(p)` (R5). -/
def Config.pageCmd (cfg : Config) (p : Nat) : Byte := cfg.pageCmds.getD p 0x00#8

/-- The default `INIT_SEQ` of R221 for a panel of `height` rows. -/
def defaultInitSeq (height : Nat) : List (List Byte) :=
  [[0xAE#8], [0x20#8, 0x02#8], [0xA8#8, BitVec.ofNat 8 (height - 1)], [0xC8#8], [0xD3#8, 0x00#8], [0x40#8], [0x81#8, 0xFF#8]]
    ++ [[0xA1#8], [0xDA#8, 0x12#8], [0xD5#8, 0x80#8], [0xD9#8, 0xF1#8], [0xDB#8, 0x20#8], [0x8D#8, 0x14#8], [0xAF#8]]

/-- The defaults of R5 for a panel of the given size whose column 0 is controller column `colOffset`
(`COL_OFFSET`). -/
def Config.paged (width height : Nat) (colOffset : Byte) : Config where
  width := width
  height := height
  initSeq := defaultInitSeq height
  pageCmds := (List.range (height / 8)).map fun p => BitVec.ofNat 8 (0xB0 + p)
  lowcolCmd := 0x00#8 ||| (colOffset &&& 0x0F#8)
  highcolCmd := 0x10#8 ||| (colOffset >>> 4)
  contrastCmd := 0x81#8
  dispOnCmd := 0xAF#8
  dispOffCmd := 0xAE#8

/-- The default configuration of R5: a 128 by 64 panel, `COL_OFFSET` 0. -/
def Config.default : Config := Config.paged 128 64 0x00#8

end Sys2Proof
end

