-- ==== Sys2Proof/Machine/State.lean ====
section
/-! DEFINITION. The state of the block (10_state.md R20), its environment's pending moves, the ways a step
stops, and the state after reset (70_reset_and_hazards.md R280). -/

namespace Sys2Proof.Machine

/-- A colour (00_scope.md R10). -/
inductive Color where
  | off
  | on
deriving DecidableEq, Repr

/-- The session lifecycle, register `STATE` (10_state.md R23, 45_session_transport.md R220). -/
inductive Session where
  | uninitialized
  | initializing
  | ready
deriving DecidableEq, Repr

/-- The completion codes of register `LAST` (10_state.md R30, 60_exceptions.md R250); codes 6 to 15 do not
exist. -/
inductive Status where
  | ok
  | sizeError
  | rangeError
  | unsupportedGlyph
  | transportError
  | illegal
deriving DecidableEq, Repr

/-- One transaction on the transport port (20_memory.md R60). -/
inductive Tx where
  | cmd (b : Byte)
  | data (bytes : List Byte)
deriving DecidableEq, Repr

/-- The transport's answer to a transaction (R60); no answer is the absence of one. -/
inductive Answer where
  | ok
  | err
deriving DecidableEq, Repr

/-- One step of a command that sends transactions: what INIT, FLUSH, SETCONTRAST and SETDISP are made of
(45_session_transport.md R222, R230, R235, R237). -/
inductive TxOp where
  /-- `TxCmd(b)`. -/
  | cmd (b : Byte)
  /-- `TxData` of page `p` of the framebuffer. -/
  | page (p : Nat)
  /-- `DISPON <- b`. -/
  | setDispon (b : Bool)
  /-- `CONTRAST <- v`. -/
  | setContrast (v : Byte)
  /-- Every framebuffer byte becomes `0x00` (INIT step 3). -/
  | clearFb
  /-- `CURX <- 0; CURY <- 0; STATE <- Ready` (INIT step 4). -/
  | ready
deriving DecidableEq, Repr

/-- A model fault with its `info` (60_exceptions.md R257, R258). -/
inductive FaultInfo where
  /-- `PreInitFault`, with the opcode. -/
  | preInit (op : Byte)
  /-- `SrcFault`, with the address. -/
  | src (a : Nat)
deriving DecidableEq, Repr

/-- A move of the environment (70_reset_and_hazards.md R284; log entry 6). -/
inductive Input where
  /-- The host writes a 32-bit value to a byte offset of the register window (20_memory.md R66). -/
  | write (offset : Nat) (v : Word)
  /-- The transport answers the transaction in flight. -/
  | answer (a : Answer)
  /-- The host asserts reset. -/
  | reset
  /-- The host makes source address `a` readable with a byte, or unreadable (20_memory.md R55, R65). -/
  | source (a : Word) (b : Option Byte)
deriving DecidableEq, Repr

/-- Source memory: the readable addresses with their bytes, addresses strictly rising. An address that is
not listed is one for which `SrcOK` is false (20_memory.md R55; log entry 5). -/
abbrev Memory := List Host.Cell

/-- The state: R20's registers and framebuffer, the command in flight, the transport trace; then the launch
parameters and the environment; then the model's own two fields. -/
structure State where
  /-- `FB` (R33), `BUF_SIZE` bytes. -/
  fb : List Byte
  /-- `STATE` (R23). -/
  session : Session
  /-- `CURX` (R24). -/
  curx : Half
  /-- `CURY` (R25). -/
  cury : Half
  /-- `DISPON` (R26). -/
  dispon : Bool
  /-- `CONTRAST` (R27). -/
  contrast : Byte
  /-- `FONT_VALID` (R28). -/
  fontValid : Bool
  /-- `FONT_W` (R28). -/
  fontW : Byte
  /-- `FONT_H` (R28). -/
  fontH : Byte
  /-- `FONT_CWEN` (R28). -/
  fontCwen : Bool
  /-- `FONT_DATA` (R28). -/
  fontData : Word
  /-- `FONT_CW` (R28). -/
  fontCw : Word
  /-- `LAST` (R30). -/
  last : Status
  /-- `RESULT` (R31). -/
  result : Byte
  /-- `FAULT_PREINIT` (R32). -/
  faultPreInit : Bool
  /-- `FAULT_SRC` (R32). -/
  faultSrc : Bool
  /-- `BUSY` (R36). -/
  busy : Bool
  /-- `PKT`, whose length is `PKT_LEN` (R35; log entry 19). -/
  pkt : List Byte
  /-- The command that waits for an answer to the transaction in flight: what it does after an OK
  (R36, R60; log entry 7). -/
  wait : Option (List TxOp)
  /-- The transport trace (R60). -/
  trace : List Tx
  /-- The parameters of 00_scope.md R5 (log entry 1). -/
  cfg : Config
  /-- Source memory (R55). -/
  src : Memory
  /-- The transport's answers that are ready when a transaction is issued, in order (log entry 6). -/
  answers : List Answer
  /-- The environment's moves to come, in order (log entry 6). -/
  inputs : List Input
  /-- The model's record of the last fault raised (R258; log entry 9). -/
  faultInfo : Option FaultInfo
  /-- The model's count of resets, which the free contents of `FB` are taken from (log entry 4). -/
  resets : Nat
deriving DecidableEq, Repr

/-- How a step stops without a next state. -/
inductive Fault where
  /-- Raised by a CMD write while a command waits for the transport: the host breaks the duty of
  70_reset_and_hazards.md R284 and R286 (a), for which the spec gives no behaviour. Safe: the model stops
  (log entry 10). -/
  | cmdWriteWhileBusy
deriving DecidableEq, Repr

/-- What a step gives no meaning to. -/
inductive Refusal where
  /-- Raised by a dispatch arm whose instruction has no meaning yet; no arm of this model. Safe. -/
  | notModelled (mnemonic : String)
  /-- Raised by a step under parameters that are no configuration of the block (00_scope.md R6). Safe. -/
  | illegalConfig
deriving DecidableEq, Repr

/-- The outcome of a command. -/
abbrev Outcome := Host.Outcome State Fault Refusal

/-- The state after the `n`-th reset (70_reset_and_hazards.md R280), with the given parameters and
environment. `FB` holds free values (log entry 4). -/
def State.resetWith (cfg : Config) (src : Memory) (answers : List Answer) (inputs : List Input) (n : Nat) : State where
  fb := (List.range cfg.bufSize).map (Config.freeFbByte n)
  session := .uninitialized
  curx := 0#16
  cury := 0#16
  dispon := false
  contrast := 0x00#8
  fontValid := false
  fontW := 0x00#8
  fontH := 0x00#8
  fontCwen := false
  fontData := 0#32
  fontCw := 0#32
  last := .ok
  result := 0x00#8
  faultPreInit := false
  faultSrc := false
  busy := false
  pkt := []
  wait := none
  trace := []
  cfg := cfg
  src := src
  answers := answers
  inputs := inputs
  faultInfo := none
  resets := n

/-- The machine right after reset (R280): the default parameters of R5, nothing readable on the source
port, no answer ready and no move pending. -/
def State.reset : State := State.resetWith Config.default [] [] [] 0

end Sys2Proof.Machine
end

