-- ==== Sys2Proof/Machine/Ops.lean ====
section
/-! DEFINITION. The named operations the commands are made of: source memory and the source port
(20_memory.md R55, R56), the framebuffer (R51, 40_framebuffer.md R100), how a packet starts, completes or
raises a model fault (30_encoding.md R72, 60_exceptions.md R258), the transport (20_memory.md R60, R61) and
reset (70_reset_and_hazards.md R280). -/

namespace Sys2Proof.Machine

/-! ## Source memory -/

/-- The canonical form of a memory: addresses strictly rising and below `2^32` (R50, R55). An unlisted
address has no value, so no entry equals what an unlisted address reads as. -/
abbrev Memory.wf (m : Memory) : Prop := m.Pairwise (fun p q => p.1 < q.1) ∧ ∀ p ∈ m, p.1 < 2 ^ 32

/-- What the memory holds at `a`; `none` where nothing is readable. -/
def Memory.lookup : Memory → Nat → Option Byte
  | [], _ => none
  | (k, b) :: m, a => if k = a then some b else Memory.lookup m a

/-- Make `a` hold `b`, in the canonical form. -/
def Memory.insert : Memory → Nat → Byte → Memory
  | [], a, b => [(a, b)]
  | (k, v) :: m, a, b =>
    if a < k then (a, b) :: (k, v) :: m
    else if a = k then (a, b) :: m
    else (k, v) :: Memory.insert m a b

/-- Make `a` unreadable. -/
def Memory.erase (m : Memory) (a : Nat) : Memory := m.filter fun p => p.1 != a

/-- The host sets what source address `a` holds, or makes it unreadable (R55, R65). -/
def Memory.put (m : Memory) (a : Nat) : Option Byte → Memory
  | some b => Memory.insert m a b
  | none => Memory.erase m a

/-- `SrcRead(a)` (R55): the byte, or the address of the `SrcFault`. An address of `2^32` or more is never
readable and never wraps. -/
def srcRead (m : Memory) (a : Nat) : Except Nat Byte :=
  if a < 2 ^ 32 then
    match Memory.lookup m a with
    | some b => .ok b
    | none => .error a
  else .error a

/-- `MemRead(a, n)` (R56): `n` reads from `a` upward, assembled little-endian. -/
def memRead (m : Memory) : Nat → Nat → Except Nat Nat
  | _, 0 => .ok 0
  | a, n + 1 =>
    match srcRead m a with
    | .error e => .error e
    | .ok b =>
      match memRead m (a + 1) n with
      | .error e => .error e
      | .ok v => .ok (b.toNat + 256 * v)

/-- What a part of a command that reads source memory leaves: the value it reached, and the address of the
`SrcFault` where one was raised. -/
inductive Fetched (α : Type) where
  | done (v : α)
  | fault (v : α) (a : Nat)
deriving DecidableEq, Repr

/-- Read one byte, then go on with it; a `SrcFault` keeps the value reached (R258). -/
def readByte {α : Type} (m : Memory) (a : Nat) (v : α) (k : Byte → Fetched α) : Fetched α :=
  match srcRead m a with
  | .ok b => k b
  | .error e => .fault v e

/-- Do `f` for every item of a list, in order, until a `SrcFault`. -/
def forEach {ι α : Type} (f : ι → α → Fetched α) : List ι → α → Fetched α
  | [], v => .done v
  | i :: is, v =>
    match f i v with
    | .done v' => forEach f is v'
    | .fault v' a => .fault v' a

/-! ## Framebuffer -/

/-- An integer point (00_scope.md R8: any sign, any size). -/
structure Point where
  x : Int
  y : Int
deriving DecidableEq, Repr

/-- `for v = a to b` (00_scope.md R9): the integers from `a` to `b`, none when `a > b`. -/
def upTo (a b : Int) : List Int := (List.range (b - a + 1).toNat).map fun (k : Nat) => a + (k : Int)

/-- `NOT c` (00_scope.md R10). -/
def Color.other : Color → Color
  | .off => .on
  | .on => .off

/-- The framebuffer bit of a colour (00_scope.md R10): ON is 1. -/
def Color.isOn : Color → Bool
  | .off => false
  | .on => true

/-- The index of the byte that holds pixel `(x, y)` (20_memory.md R51). -/
def fbIndex (cfg : Config) (x y : Nat) : Nat := x + (y / 8) * cfg.width

/-- Pixel `(x, y)` (R51): true is ON. -/
def pixel (cfg : Config) (fb : List Byte) (x y : Nat) : Bool :=
  (fb.getD (fbIndex cfg x y) 0x00#8).getLsbD (y % 8)

/-- The bit of row `y` in its byte (R51). -/
def rowBit (y : Nat) : Byte := 1#8 <<< (y % 8)

/-- Set or clear the bit of row `y` in a byte (R100). -/
def colorBit (c : Color) (y : Nat) (b : Byte) : Byte :=
  match c with
  | .on => b ||| rowBit y
  | .off => b &&& ~~~ (rowBit y)

/-- The points `plot` does not discard (R100). -/
def inBounds (cfg : Config) (p : Point) : Bool :=
  decide (0 ≤ p.x) && decide (p.x < cfg.width) && decide (0 ≤ p.y) && decide (p.y < cfg.height)

/-- `plot(x, y, c)` (R100): the bounds-safe pixel write. -/
def plot (cfg : Config) (c : Color) (p : Point) (fb : List Byte) : List Byte :=
  if inBounds cfg p then fb.modify (fbIndex cfg p.x.toNat p.y.toNat) (colorBit c p.y.toNat) else fb

/-- Plot every point of a list in one colour, in order (00_scope.md R11). -/
def paint (cfg : Config) (c : Color) (pts : List Point) (fb : List Byte) : List Byte :=
  pts.foldl (fun fb p => plot cfg c p fb) fb

/-- XOR one pixel (42_fills.md R142). -/
def flip (cfg : Config) (x y : Nat) (fb : List Byte) : List Byte :=
  fb.modify (fbIndex cfg x y) fun b => b ^^^ rowBit y

/-- The bytes of page `p`, column 0 first (20_memory.md R51). -/
def pageBytes (cfg : Config) (fb : List Byte) (p : Nat) : List Byte := (fb.drop (p * cfg.width)).take cfg.width

/-- `OutOfBounds(x, y)` (40_framebuffer.md R108), the anchor guard's test on operand values. -/
def outOfBounds (cfg : Config) (x y : Nat) : Bool := decide (cfg.width ≤ x) || decide (cfg.height ≤ y)

/-! ## A command's start, completion and fault -/

/-- `BUSY <- 1` (30_encoding.md R72). -/
def State.begin (s : State) : State := { s with busy := true }

/-- `complete(s, r)` (R72): `LAST <- s; RESULT <- r; BUSY <- 0`. -/
def State.complete (st : Status) (r : Byte) (s : State) : State := { s with last := st, result := r, busy := false }

/-- `raise Fault(kind, info)` (60_exceptions.md R258): the sticky bit is set and BUSY stays 1; nothing else
changes. This is the block's one exception entry; only reset leaves it (R263, R264). -/
def State.raise (f : FaultInfo) (s : State) : State :=
  match f with
  | .preInit _ => { s with faultPreInit := true, faultInfo := some f, busy := true }
  | .src _ => { s with faultSrc := true, faultInfo := some f, busy := true }

/-- A model fault has stopped the block (R258). -/
def State.faulted (s : State) : Bool := s.faultPreInit || s.faultSrc

/-- `Execute(pkt)` of R72 for a command other than INIT: the legality test first, then the pre-init test,
then the body (R262). -/
def execute (op : Byte) (legal : Bool) (body : State → State) (s : State) : Outcome :=
  if legal then
    if s.session = .ready then .next (body s.begin) else .next (s.begin.raise (.preInit op))
  else .next (s.begin.complete .illegal 0x00#8)

/-- Take over a framebuffer. -/
def State.withFb (fb : List Byte) (s : State) : State := { s with fb := fb }

/-- Plot every point of a list and complete OK (R72: "Every body that does not state otherwise ends with
`complete(OK, 0x00)`"). -/
def State.paintAll (c : Color) (pts : List Point) (s : State) : State :=
  (s.withFb (paint s.cfg c pts s.fb)).complete .ok 0x00#8

/-- End a body that read source memory while it drew: complete OK, or raise its `SrcFault` with the
framebuffer reached (R258). -/
def State.endFetch (r : Fetched (List Byte)) (s : State) : State :=
  match r with
  | .done fb => (s.withFb fb).complete .ok 0x00#8
  | .fault fb a => (s.withFb fb).raise (.src a)

/-! ## Transport -/

/-- Issue one transaction: append it to the trace (20_memory.md R60). -/
def State.send (t : Tx) (s : State) : State := { s with trace := s.trace ++ [t] }

/-- The first ERR answer ends the command with TRANSPORT_ERROR (60_exceptions.md R255); INIT, the one
command that runs in `Initializing`, falls back to `Uninitialized` (45_session_transport.md R223). -/
def State.txError (s : State) : State :=
  State.complete .transportError 0x00#8
    { s with session := if s.session = .initializing then .uninitialized else s.session }

/-- An operation that sends nothing. -/
def TxOp.apply (op : TxOp) (s : State) : State :=
  match op with
  | .setDispon b => { s with dispon := b }
  | .setContrast v => { s with contrast := v }
  | .clearFb => { s with fb := List.replicate s.cfg.bufSize 0x00#8 }
  | .ready => { s with curx := 0#16, cury := 0#16, session := .ready }
  | _ => s

/-- The transaction an operation sends, if it sends one. -/
def TxOp.tx (op : TxOp) (s : State) : Option Tx :=
  match op with
  | .cmd b => some (.cmd b)
  | .page p => some (.data (pageBytes s.cfg s.fb p))
  | _ => none

/-- Run a transport command (R60, R61): issue each transaction and take its answer. OK goes on, ERR ends
the command, and with no answer ready the command waits with the rest of its work (R36). At the end the
command completes OK. -/
def runTx : List TxOp → State → State
  | [], s => s.complete .ok 0x00#8
  | op :: rest, s =>
    match op.tx s with
    | none => runTx rest (op.apply s)
    | some t =>
      match s.answers with
      | [] => { s.send t with wait := some rest }
      | .ok :: as => runTx rest { s.send t with answers := as }
      | .err :: as => State.txError { s.send t with answers := as }

/-- The transport answers the transaction in flight of a command that has `rest` left to do (R60). -/
def resumeTx (a : Answer) (rest : List TxOp) (s : State) : State :=
  match a with
  | .ok => runTx rest { s with wait := none }
  | .err => State.txError { s with wait := none }

/-! ## Reset -/

/-- Reset (70_reset_and_hazards.md R280): the block takes its reset state; a transaction in flight is
abandoned. The parameters and the environment are not the block's and stay (log entry 16). -/
def State.assertReset (s : State) : State := State.resetWith s.cfg s.src s.answers s.inputs (s.resets + 1)

end Sys2Proof.Machine
end

