-- ==== Sys2Proof/Machine/Operands.lean ====
section
/-! DEFINITION. The operand forms of a packet (30_encoding.md R74 to R76) as the commands use them, and the
legality tests of R79. Every operand is unsigned: `toNat` is `zext_N` (00_scope.md R9). -/

namespace Sys2Proof.Machine

/-- A legal `col` byte (R79 (b)). -/
def colLegal (c : Byte) : Bool := decide (c.toNat ≤ 1)

/-- A legal `bool` byte (R79 (c)). -/
def boolLegal (b : Byte) : Bool := decide (b.toNat ≤ 1)

/-- Legal SETFONT fields (R79 (d)): `w` in 1 to 16, `h` not 0, `flags AND 0xFE = 0`. -/
def fontLegal (w h flags : Byte) : Bool :=
  !(w.toNat == 0 || decide (16 < w.toNat) || h.toNat == 0 || (flags &&& 0xFE#8) != 0x00#8)

/-- The colour of a legal `col` byte (R75). -/
def colorOf (c : Byte) : Color := if c = 0x01#8 then .on else .off

/-- The truth value of a legal `bool` byte (R76). -/
def boolOf (b : Byte) : Bool := b = 0x01#8

/-- `flags AND 1` of SETFONT (44_text_bitmap.md R190). -/
def flagBit0 (flags : Byte) : Bool := flags.getLsbD 0

/-- The point of two coordinate operands, zero-extended (00_scope.md R8). -/
def pointOf (x y : Byte) : Point := ⟨x.toNat, y.toNat⟩

end Sys2Proof.Machine
end

