-- ==== Sys2Proof/Machine/Lines.lean ====
section
/-! DEFINITION. LINE, POLYLINE and RECT (41_lines.md). -/

namespace Sys2Proof.Machine

/-- The loop of `LinePts` (R120): the points emitted from `p` on, towards `q`, with the magnitudes `dx`,
`dy`, the signs `sx`, `sy` and the error `err`. The fuel bounds the iterations (log entry 15). -/
def lineLoop (q : Point) (dx dy sx sy : Int) : Nat → Point → Int → List Point
  | 0, _, _ => []
  | n + 1, p, err =>
    if p = q then []
    else
      let e2 := 2 * err
      let err1 := if e2 > -dy then err - dy else err
      let x1 := if e2 > -dy then p.x + sx else p.x
      let err2 := if e2 < dx then err1 + dx else err1
      let y1 := if e2 < dx then p.y + sy else p.y
      p :: lineLoop q dx dy sx sy n ⟨x1, y1⟩ err2

/-- `LinePts(p, q)` (R120): the end point, then the loop, whose iterations are `max(dx, dy)` (R122 (b)). -/
def linePts (p q : Point) : List Point :=
  let dx : Int := (q.x - p.x).natAbs
  let dy : Int := (q.y - p.y).natAbs
  let sx : Int := if p.x < q.x then 1 else -1
  let sy : Int := if p.y < q.y then 1 else -1
  q :: lineLoop q dx dy sx sy (max (q.x - p.x).natAbs (q.y - p.y).natAbs) p (dx - dy)

/-- LINE (R121). -/
def execLine (x1 y1 x2 y2 c : Byte) (s : State) : Outcome :=
  execute 0x11#8 (colLegal c) (State.paintAll (colorOf c) (linePts (pointOf x1 y1) (pointOf x2 y2))) s

/-- Read vertex `i` of a vertex list (R124): `x` at `addr + 2 i`, then `y` at `addr + 2 i + 1`. -/
def readVertex {α : Type} (src : Memory) (addr i : Nat) (v : α) (k : Point → Fetched α) : Fetched α :=
  readByte src (addr + 2 * i) v fun x => readByte src (addr + 2 * i + 1) v fun y => k (pointOf x y)

/-- The loop of POLYLINE (R124): segment `i + 1` runs from vertex `i` to vertex `i + 1`. -/
def polySegments (cfg : Config) (c : Color) (src : Memory) (addr count : Nat) (fb : List Byte) : Fetched (List Byte) :=
  forEach
    (fun i fb =>
      readVertex src addr i fb fun a => readVertex src addr (i + 1) fb fun b => .done (paint cfg c (linePts a b) fb))
    (List.range (count - 1)) fb

/-- POLYLINE (R124): address 0 is null, and fewer than two vertices draw nothing; neither reads. -/
def execPolyline (addr : Word) (count : Half) (c : Byte) (s : State) : Outcome :=
  execute 0x12#8 (colLegal c)
    (fun s =>
      if addr.toNat = 0 ∨ count.toNat < 2 then s.complete .ok 0x00#8
      else s.endFetch (polySegments s.cfg (colorOf c) s.src addr.toNat count.toNat s.fb)) s

/-- The four edges of a rectangle outline, in the order of R126. -/
def rectPts (p q : Point) : List Point :=
  linePts ⟨p.x, p.y⟩ ⟨q.x, p.y⟩ ++ linePts ⟨q.x, p.y⟩ ⟨q.x, q.y⟩ ++ linePts ⟨q.x, q.y⟩ ⟨p.x, q.y⟩
    ++ linePts ⟨p.x, q.y⟩ ⟨p.x, p.y⟩

/-- RECT (R126). -/
def execRect (x1 y1 x2 y2 c : Byte) (s : State) : Outcome :=
  execute 0x13#8 (colLegal c) (State.paintAll (colorOf c) (rectPts (pointOf x1 y1) (pointOf x2 y2))) s

end Sys2Proof.Machine
end

