-- ==== Sys2Proof/Machine/Arcs.lean ====
section
/-! DEFINITION. ARC and ARCRL (43_circles_arcs.md, sections 2 to 4). -/

namespace Sys2Proof.Machine

/-- `Norm360(a)` (R165). -/
def norm360 (a : Nat) : Nat := if a % 360 = 0 then 360 else a % 360

/-- The segment count `N` of a normalised sweep (R166). -/
def segCount (t : Nat) : Nat := (t + 5) / 10

/-- The sine ROM `SINQ[d] = round(sin(d degrees) * 16384)` of R170, ten degrees a row. -/
def sinRom : List Nat :=
  [0, 286, 572, 857, 1143, 1428, 1713, 1997, 2280, 2563]
    ++ [2845, 3126, 3406, 3686, 3964, 4240, 4516, 4790, 5063, 5334]
    ++ [5604, 5872, 6138, 6402, 6664, 6924, 7182, 7438, 7692, 7943]
    ++ [8192, 8438, 8682, 8923, 9162, 9397, 9630, 9860, 10087, 10311]
    ++ [10531, 10749, 10963, 11174, 11381, 11585, 11786, 11982, 12176, 12365]
    ++ [12551, 12733, 12911, 13085, 13255, 13421, 13583, 13741, 13894, 14044]
    ++ [14189, 14330, 14466, 14598, 14726, 14849, 14968, 15082, 15191, 15296]
    ++ [15396, 15491, 15582, 15668, 15749, 15826, 15897, 15964, 16026, 16083]
    ++ [16135, 16182, 16225, 16262, 16294, 16322, 16344, 16362, 16374, 16382]
    ++ [16384]

/-- `SINQ[d]` (R170), for `d` in 0 to 90. -/
def sinq (d : Nat) : Int := (sinRom.getD d 0 : Nat)

/-- `SinQ(t)` (R171), by quadrant. -/
def sinQ (t : Nat) : Int :=
  let u := t % 360
  if u ≤ 90 then sinq u
  else if u ≤ 180 then sinq (180 - u)
  else if u ≤ 270 then -sinq (u - 180)
  else -sinq (360 - u)

/-- `CosQ(t)` (R171). -/
def cosQ (t : Nat) : Int := sinQ (t + 90)

/-- `ROff(r, s)` (R172): `r * s / 16384`, nearest, ties away from 0. -/
def rOff (r : Nat) (s : Int) : Int := s.sign * (((r * s.natAbs + 8192) / 16384 : Nat) : Int)

/-- The sample angle `t_k` in whole degrees (R172). -/
def sampleAngle (start sweep n k : Nat) : Nat := if n = 0 then start else start + (2 * k * sweep + n) / (2 * n)

/-- The sample point `P_k` (R172) of an arc with normalised start and sweep. -/
def samplePoint (cx cy : Int) (r start sweep k : Nat) : Point :=
  let t := sampleAngle start sweep (segCount sweep) k
  ⟨cx + rOff r (sinQ t), cy + rOff r (cosQ t)⟩

/-- The chords of an arc, in order (R174), with normalised start and sweep. -/
def arcChords (cx cy : Int) (r start sweep : Nat) : List Point :=
  (List.range (segCount sweep)).flatMap fun k =>
    linePts (samplePoint cx cy r start sweep k) (samplePoint cx cy r start sweep (k + 1))

/-- The points of ARC (R174) from its operands. -/
def arcPts (cx cy r : Byte) (start sweep : Half) : List Point :=
  arcChords cx.toNat cy.toNat r.toNat (norm360 start.toNat) (norm360 sweep.toNat)

/-- The two radius lines of ARCRL (R175), from the centre to the first and to the last sample. -/
def radiusPts (cx cy r : Byte) (start sweep : Half) : List Point :=
  let p := samplePoint cx.toNat cy.toNat r.toNat (norm360 start.toNat) (norm360 sweep.toNat)
  linePts (pointOf cx cy) (p 0) ++ linePts (pointOf cx cy) (p (segCount (norm360 sweep.toNat)))

/-- ARC (R174). -/
def execArc (cx cy r : Byte) (start sweep : Half) (c : Byte) (s : State) : Outcome :=
  execute 0x18#8 (colLegal c) (State.paintAll (colorOf c) (arcPts cx cy r start sweep)) s

/-- ARCRL (R175): the body of ARC, then the two radius lines. -/
def execArcrl (cx cy r : Byte) (start sweep : Half) (c : Byte) (s : State) : Outcome :=
  execute 0x19#8 (colLegal c)
    (State.paintAll (colorOf c) (arcPts cx cy r start sweep ++ radiusPts cx cy r start sweep)) s

end Sys2Proof.Machine
end

