-- ==== Sys2Proof/Machine/Bitmap.lean ====
section
/-! DEFINITION. BITMAP (44_text_bitmap.md, section 4). -/

namespace Sys2Proof.Machine

/-- The bytes of one bitmap row (R210): `(w + 7) div 8`. -/
def bitmapStride (w : Nat) : Nat := (w + 7) / 8

/-- The pixel loops of BITMAP (R210): pixel `(i, j)` is bit `7 - (i mod 8)` of byte
`addr + j * stride + i div 8`; set bits are plotted, clear bits leave the pixel. -/
def blit (cfg : Config) (c : Color) (src : Memory) (x y addr w h : Nat) (fb : List Byte) : Fetched (List Byte) :=
  forEach
    (fun j fb =>
      forEach
        (fun i fb =>
          readByte src (addr + j * bitmapStride w + i / 8) fb fun b =>
            .done (if b.getLsbD (7 - i % 8) then plot cfg c ⟨x + i, y + j⟩ fb else fb))
        (List.range w) fb)
    (List.range h) fb

/-- BITMAP (R210), with the anchor guard (40_framebuffer.md R108): an anchor out of bounds reads nothing. -/
def execBitmap (x y : Byte) (addr : Word) (w h c : Byte) (s : State) : Outcome :=
  execute 0x28#8 (colLegal c)
    (fun s =>
      if outOfBounds s.cfg x.toNat y.toNat then s.complete .ok 0x00#8
      else s.endFetch (blit s.cfg (colorOf c) s.src x.toNat y.toNat addr.toNat w.toNat h.toNat s.fb)) s

end Sys2Proof.Machine
end

