-- ==== Sys2Proof/Machine/Fills.lean ====
section
/-! DEFINITION. FILLRECT, INVRECT and FILLTRI (42_fills.md). -/

namespace Sys2Proof.Machine

/-- Row `y` from `a` to `b`, both ends included. -/
def rowPts (y a b : Int) : List Point := (upTo a b).map fun x => ⟨x, y⟩

/-- The points of FILLRECT (R140): the corners normalised, the rows and columns clipped to the buffer. -/
def fillRectPts (cfg : Config) (p q : Point) : List Point :=
  (upTo (min p.y q.y) (min (max p.y q.y) ((cfg.height : Int) - 1))).flatMap fun y =>
    rowPts y (min p.x q.x) (min (max p.x q.x) ((cfg.width : Int) - 1))

/-- FILLRECT (R140). -/
def execFillrect (x1 y1 x2 y2 c : Byte) (s : State) : Outcome :=
  execute 0x14#8 (colLegal c)
    (fun s => s.paintAll (colorOf c) (fillRectPts s.cfg (pointOf x1 y1) (pointOf x2 y2))) s

/-- The range test of INVRECT (R142). -/
def invRange (cfg : Config) (x1 y1 x2 y2 : Nat) : Bool :=
  decide (x2 < cfg.width) && decide (y2 < cfg.height) && decide (x1 ≤ x2) && decide (y1 ≤ y2)

/-- The loop of INVRECT (R142): every pixel of the closed rectangle is XORed once. -/
def invertRect (cfg : Config) (x1 y1 x2 y2 : Nat) (fb : List Byte) : List Byte :=
  (List.range' y1 (y2 + 1 - y1)).foldl
    (fun fb y => (List.range' x1 (x2 + 1 - x1)).foldl (fun fb x => flip cfg x y fb) fb) fb

/-- The byte-mask form of INVRECT on column `x` (R143): the page of row `y1` gets the mask of its rows from
`y1` down, the page of row `y2` the mask of its rows up to `y2`, and every page between them `0xFF`. -/
def invertColumn (cfg : Config) (y1 y2 x : Nat) (fb : List Byte) : List Byte :=
  let p1 := y1 / 8
  let p2 := y2 / 8
  let top := 0xFF#8 <<< (y1 % 8)
  let bot := 0xFF#8 >>> (7 - y2 % 8)
  if p1 = p2 then fb.modify (x + p1 * cfg.width) fun b => b ^^^ (top &&& bot)
  else
    let fb1 := fb.modify (x + p1 * cfg.width) fun b => b ^^^ top
    let fb2 := (List.range' (p1 + 1) (p2 - (p1 + 1))).foldl (fun fb p => fb.modify (x + p * cfg.width) fun b => b ^^^ 0xFF#8) fb1
    fb2.modify (x + p2 * cfg.width) fun b => b ^^^ bot

/-- The byte-mask form of INVRECT (R143), which "an implementation may use" in place of `invertRect`. -/
def invertRectBytes (cfg : Config) (x1 y1 x2 y2 : Nat) (fb : List Byte) : List Byte :=
  (List.range' x1 (x2 + 1 - x1)).foldl (fun fb x => invertColumn cfg y1 y2 x fb) fb

/-- INVRECT (R142); the whole rectangle is tested before any pixel changes (60_exceptions.md R253). -/
def execInvrect (x1 y1 x2 y2 : Byte) (s : State) : Outcome :=
  execute 0x15#8 true
    (fun s =>
      if invRange s.cfg x1.toNat y1.toNat x2.toNat y2.toNat then
        (s.withFb (invertRect s.cfg x1.toNat y1.toNat x2.toNat y2.toNat s.fb)).complete .ok 0x00#8
      else s.complete .rangeError 0x00#8) s

/-- `RDiv(n, d)` (R146): `n / d` to the nearest integer, ties away from zero, for `d > 0`. -/
def rdiv (n d : Int) : Int :=
  let m := (2 * (n.natAbs : Int) + d) / (2 * d)
  if n ≥ 0 then m else -m

/-- `EdgeX(p, q, y)` (R146): the edge's column on row `y`. -/
def edgeX (p q : Point) (y : Int) : Int :=
  if q.y = p.y then p.x else p.x + rdiv ((y - p.y) * (q.x - p.x)) (q.y - p.y)

/-- Order two points by `y`; equal rows keep their order (the swaps of R147). -/
def byRow (p q : Point) : Point × Point := if p.y > q.y then (q, p) else (p, q)

/-- The three vertices by ascending `y`, stable (R147). -/
def sortByRow (a b c : Point) : Point × Point × Point :=
  let ab := byRow a b
  let bc := byRow ab.2 c
  let ab' := byRow ab.1 bc.1
  (ab'.1, ab'.2, bc.2)

/-- The points of a filled triangle with sorted vertices (R147). -/
def triRows (v0 v1 v2 : Point) : List Point :=
  if v0.y = v2.y then rowPts v0.y (min (min v0.x v1.x) v2.x) (max (max v0.x v1.x) v2.x)
  else
    (upTo v0.y v2.y).flatMap fun y =>
      let xa := edgeX v0 v2 y
      let xb := if y < v1.y then edgeX v0 v1 y else edgeX v1 v2 y
      rowPts y (min xa xb) (max xa xb)

/-- `TriPts` (R147). -/
def triPts (a b c : Point) : List Point :=
  let v := sortByRow a b c
  triRows v.1 v.2.1 v.2.2

/-- FILLTRI (R148). -/
def execFilltri (x0 y0 x1 y1 x2 y2 c : Byte) (s : State) : Outcome :=
  execute 0x1A#8 (colLegal c)
    (State.paintAll (colorOf c) (triPts (pointOf x0 y0) (pointOf x1 y1) (pointOf x2 y2))) s

end Sys2Proof.Machine
end

