-- ==== Sys2Proof/Machine/Circles.lean ====
section
/-! DEFINITION. CIRCLE and FILLCIRCLE (43_circles_arcs.md, section 1). -/

namespace Sys2Proof.Machine

/-- The loop of `CircleSteps` (R160): emit, update `y`, update `x`, until `x > 0`. The fuel bounds the passes
(log entry 15). -/
def circleLoop : Nat → Int → Int → Int → List Point
  | 0, _, _, _ => []
  | n + 1, x, y, err =>
    let y1 := if err ≤ y then y + 1 else y
    let err1 := if err ≤ y then err + (2 * y1 + 1) else err
    let e2 := if err ≤ y ∧ -x = y1 ∧ err ≤ x then 0 else err
    let x1 := if e2 > x then x + 1 else x
    let err2 := if e2 > x then err1 + (2 * x1 + 1) else err1
    ⟨x, y⟩ :: (if x1 > 0 then [] else circleLoop n x1 y1 err2)

/-- `CircleSteps(r)` (R160): at most `2 r + 1` passes. -/
def circleSteps (r : Nat) : List Point := circleLoop (2 * r + 1) (-(r : Int)) 0 (2 - 2 * (r : Int))

/-- `CirclePts` (R161): the four symmetric points of each step, in order. -/
def circlePts (cx cy : Int) (r : Nat) : List Point :=
  (circleSteps r).flatMap fun p =>
    [⟨cx - p.x, cy + p.y⟩, ⟨cx + p.x, cy + p.y⟩, ⟨cx + p.x, cy - p.y⟩, ⟨cx - p.x, cy - p.y⟩]

/-- CIRCLE (R162), with the anchor guard (40_framebuffer.md R108). -/
def execCircle (cx cy r c : Byte) (s : State) : Outcome :=
  execute 0x16#8 (colLegal c)
    (fun s =>
      if outOfBounds s.cfg cx.toNat cy.toNat then s.complete .ok 0x00#8
      else s.paintAll (colorOf c) (circlePts cx.toNat cy.toNat r.toNat)) s

/-- `FillCirclePts` (R163): the closed rectangle of each step. -/
def fillCirclePts (cx cy : Int) (r : Nat) : List Point :=
  (circleSteps r).flatMap fun p =>
    (upTo (cy - p.y) (cy + p.y)).flatMap fun y => rowPts y (cx + p.x) (cx - p.x)

/-- FILLCIRCLE (R164), with the anchor guard. -/
def execFillcircle (cx cy r c : Byte) (s : State) : Outcome :=
  execute 0x17#8 (colLegal c)
    (fun s =>
      if outOfBounds s.cfg cx.toNat cy.toNat then s.complete .ok 0x00#8
      else s.paintAll (colorOf c) (fillCirclePts cx.toNat cy.toNat r.toNat)) s

end Sys2Proof.Machine
end

