-- ==== Sys2Proof/Machine/Display.lean ====
section
/-! DEFINITION. INIT, FLUSH, SETCONTRAST, SETDISP and GETDISP (45_session_transport.md). -/

namespace Sys2Proof.Machine

/-- The register effect of INIT step `n` when it succeeds (R221): steps 1 and 14 set DISPON, step 7 sets
CONTRAST to its last byte. -/
def initEffect (n : Nat) (bytes : List Byte) : List TxOp :=
  match n with
  | 1 => [.setDispon false]
  | 7 =>
    match bytes.getLast? with
    | some v => [.setContrast v]
    | none => []
  | 14 => [.setDispon true]
  | _ => []

/-- `INIT_SEQ` (R221, R222 step 2): each step's bytes, one transaction a byte, then its effect. -/
def initSeqOps (cfg : Config) : List TxOp :=
  (cfg.initSeq.zipIdx 1).flatMap fun st => st.1.map .cmd ++ initEffect st.2 st.1

/-- `Flush()` (R230): for each page its three commands, then its bytes. -/
def flushOps (cfg : Config) : List TxOp :=
  (List.range cfg.pages).flatMap fun p => [.cmd (cfg.pageCmd p), .cmd cfg.lowcolCmd, .cmd cfg.highcolCmd, .page p]

/-- All that INIT does after `STATE <- Initializing` (R222 steps 2 to 4). -/
def initOps (cfg : Config) : List TxOp := initSeqOps cfg ++ .clearFb :: flushOps cfg ++ [.ready]

/-- INIT (R222), the one command that needs no `Ready` (30_encoding.md R72). -/
def execInit (s : State) : Outcome := .next (runTx (initOps s.cfg) { s.begin with session := .initializing })

/-- FLUSH (R231). -/
def execFlush (s : State) : Outcome := execute 0x04#8 true (fun s => runTx (flushOps s.cfg) s) s

/-- SETCONTRAST (R235). -/
def execSetcontrast (v : Byte) (s : State) : Outcome :=
  execute 0x05#8 true (fun s => runTx [.cmd s.cfg.contrastCmd, .cmd v, .setContrast v] s) s

/-- The display on or off command byte (R237). -/
def dispCmd (cfg : Config) (sw : Bool) : Byte := if sw then cfg.dispOnCmd else cfg.dispOffCmd

/-- SETDISP (R237). -/
def execSetdisp (sw : Byte) (s : State) : Outcome :=
  execute 0x06#8 (boolLegal sw)
    (fun s => runTx [.cmd (dispCmd s.cfg (boolOf sw)), .setDispon (boolOf sw)] s) s

/-- GETDISP (R239): RESULT is DISPON; nothing is sent. -/
def execGetdisp (s : State) : Outcome :=
  execute 0x07#8 true (fun s => s.complete .ok (if s.dispon then 0x01#8 else 0x00#8)) s

end Sys2Proof.Machine
end

