-- ==== Sys2Proof/Machine/Framebuffer.lean ====
section
/-! DEFINITION. FILL, LOAD and PIXEL (40_framebuffer.md). -/

namespace Sys2Proof.Machine

/-- The byte FILL stores for a colour (R102). -/
def fillByte : Color → Byte
  | .on => 0xFF#8
  | .off => 0x00#8

/-- FILL (R102). -/
def execFill (c : Byte) (s : State) : Outcome :=
  execute 0x02#8 (colLegal c)
    (fun s => (s.withFb (List.replicate s.cfg.bufSize (fillByte (colorOf c)))).complete .ok 0x00#8) s

/-- The copy loop of LOAD (R104): `FB[i] <- SrcRead(addr + i)` for `i < len`. -/
def loadBytes (src : Memory) (addr len : Nat) (fb : List Byte) : Fetched (List Byte) :=
  forEach (fun i fb => readByte src (addr + i) fb fun b => .done (fb.set i b)) (List.range len) fb

/-- LOAD (R104); the size is checked before anything is read (60_exceptions.md R252). -/
def execLoad (addr : Word) (len : Half) (s : State) : Outcome :=
  execute 0x03#8 true
    (fun s =>
      if s.cfg.bufSize < len.toNat then s.complete .sizeError 0x00#8
      else s.endFetch (loadBytes s.src addr.toNat len.toNat s.fb)) s

/-- PIXEL (R106). -/
def execPixel (x y c : Byte) (s : State) : Outcome :=
  execute 0x10#8 (colLegal c) (State.paintAll (colorOf c) [pointOf x y]) s

end Sys2Proof.Machine
end

