-- ==== Sys2Proof/Machine/Text.lean ====
section
/-! DEFINITION. SETFONT, SETCURSOR, WRCHAR and WRSTR (44_text_bitmap.md, sections 1 to 3). -/

namespace Sys2Proof.Machine

/-- SETFONT (R190). -/
def execSetfont (w h flags : Byte) (data cw : Word) (s : State) : Outcome :=
  execute 0x20#8 (fontLegal w h flags)
    (fun s =>
      State.complete .ok 0x00#8
        { s with
          fontW := w, fontH := h, fontCwen := flagBit0 flags, fontData := data, fontCw := cw, fontValid := true }) s

/-- SETCURSOR (R194). -/
def execSetcursor (x y : Half) (s : State) : Outcome :=
  execute 0x21#8 true (fun s => State.complete .ok 0x00#8 { s with curx := x, cury := y }) s

/-- The source address of row `i` of the glyph of `ch` (R192). -/
def glyphRowAddr (s : State) (ch i : Nat) : Nat := s.fontData.toNat + 2 * ((ch - 32) * s.fontH.toNat + i)

/-- The source address of the width-table entry of `ch` (R192). -/
def glyphWidthAddr (s : State) (ch : Nat) : Nat := s.fontCw.toNat + (ch - 32)

/-- Plot one row of a glyph (R200): column `j` is bit `15 - j` of the row word; set bits in `c`, clear bits
in the other colour. -/
def drawGlyphRow (s : State) (c : Color) (i row : Nat) (fb : List Byte) : List Byte :=
  (List.range s.fontW.toNat).foldl
    (fun fb j =>
      plot s.cfg (if row.testBit (15 - j) then c else c.other) ⟨s.curx.toNat + j, s.cury.toNat + i⟩ fb) fb

/-- The pixel loop of `PutGlyph` (R200): each row is read, then drawn. -/
def drawGlyph (s : State) (c : Color) (ch : Nat) : Fetched (List Byte) :=
  forEach
    (fun i fb =>
      match memRead s.src (glyphRowAddr s ch i) 2 with
      | .ok row => .done (drawGlyphRow s c i row fb)
      | .error a => .fault fb a)
    (List.range s.fontH.toNat) s.fb

/-- The advance of a written character (R200), or the address of its `SrcFault`. -/
def glyphAdvance (s : State) (ch : Nat) : Except Nat Byte :=
  if s.fontCwen then srcRead s.src (glyphWidthAddr s ch) else .ok s.fontW

/-- The tests of `PutGlyph` in their order (R200, 60_exceptions.md R254): `none` where the character is
written. -/
def glyphRefusal (s : State) (ch : Nat) : Option Status :=
  if s.fontValid = false then some .illegal
  else if ch < 32 ∨ 126 < ch then some .unsupportedGlyph
  else if s.cfg.width < s.curx.toNat + s.fontW.toNat ∨ s.cfg.height < s.cury.toNat + s.fontH.toNat then some .rangeError
  else none

/-- How `PutGlyph` ends. -/
inductive Glyph where
  /-- It returns a status other than OK; nothing has changed. -/
  | refused (st : Status)
  /-- It returns OK, in the state reached. -/
  | written (s : State)
  /-- A `SrcFault` at the address, in the state reached. -/
  | fault (s : State) (a : Nat)

/-- `PutGlyph(ch, c)` (R200). -/
def putGlyph (c : Color) (ch : Nat) (s : State) : Glyph :=
  match glyphRefusal s ch with
  | some st => .refused st
  | none =>
    match drawGlyph s c ch with
    | .fault fb a => .fault (s.withFb fb) a
    | .done fb =>
      match glyphAdvance s ch with
      | .error a => .fault (s.withFb fb) a
      | .ok adv => .written { s.withFb fb with curx := s.curx + adv.zeroExtend 16 }

/-- WRCHAR (R201). -/
def execWrchar (ch c : Byte) (s : State) : Outcome :=
  execute 0x22#8 (colLegal c)
    (fun s =>
      match putGlyph (colorOf c) ch.toNat s with
      | .refused st => s.complete st 0x00#8
      | .written t => t.complete .ok ch
      | .fault t a => t.raise (.src a)) s

/-- The loop of WRSTR (R204) at address `a`. The fuel is the number of addresses from `a` to the top of the
source space, so where it ends `a` is `2^32`, whose read is the `SrcFault` of R204. -/
def writeString (c : Color) : Nat → Nat → State → State
  | 0, a, s => s.raise (.src a)
  | n + 1, a, s =>
    match srcRead s.src a with
    | .error e => s.raise (.src e)
    | .ok ch =>
      if ch = 0x00#8 then s.complete .ok 0x00#8
      else
        match putGlyph c ch.toNat s with
        | .refused st => s.complete st ch
        | .written t => writeString c n (a + 1) t
        | .fault t e => t.raise (.src e)

/-- WRSTR (R204); with no font it completes ILLEGAL and reads nothing. -/
def execWrstr (addr : Word) (c : Byte) (s : State) : Outcome :=
  execute 0x23#8 (colLegal c)
    (fun s =>
      if s.fontValid = false then s.complete .illegal 0x00#8
      else writeString (colorOf c) (2 ^ 32 - addr.toNat) addr.toNat s) s

end Sys2Proof.Machine
end

