-- ==== Sys2Proof/Machine/Dispatch.lean ====
section
/-! DEFINITION. The meaning of every command of spec/opcode_table.json, one arm per constructor. -/

namespace Sys2Proof.Machine

def exec (i : Instr) (s : State) : Host.Outcome State Fault Refusal :=
  match i with
  | .init => Sys2Proof.Machine.execInit s
  | .fill c => Sys2Proof.Machine.execFill c s
  | .load addr len => Sys2Proof.Machine.execLoad addr len s
  | .flush => Sys2Proof.Machine.execFlush s
  | .setcontrast v => Sys2Proof.Machine.execSetcontrast v s
  | .setdisp sw => Sys2Proof.Machine.execSetdisp sw s
  | .getdisp => Sys2Proof.Machine.execGetdisp s
  | .pixel x y c => Sys2Proof.Machine.execPixel x y c s
  | .line x1 y1 x2 y2 c => Sys2Proof.Machine.execLine x1 y1 x2 y2 c s
  | .polyline addr count c => Sys2Proof.Machine.execPolyline addr count c s
  | .rect x1 y1 x2 y2 c => Sys2Proof.Machine.execRect x1 y1 x2 y2 c s
  | .fillrect x1 y1 x2 y2 c => Sys2Proof.Machine.execFillrect x1 y1 x2 y2 c s
  | .invrect x1 y1 x2 y2 => Sys2Proof.Machine.execInvrect x1 y1 x2 y2 s
  | .circle cx cy r c => Sys2Proof.Machine.execCircle cx cy r c s
  | .fillcircle cx cy r c => Sys2Proof.Machine.execFillcircle cx cy r c s
  | .arc cx cy r start sweep c => Sys2Proof.Machine.execArc cx cy r start sweep c s
  | .arcrl cx cy r start sweep c => Sys2Proof.Machine.execArcrl cx cy r start sweep c s
  | .filltri x0 y0 x1 y1 x2 y2 c => Sys2Proof.Machine.execFilltri x0 y0 x1 y1 x2 y2 c s
  | .setfont w h flags data cw => Sys2Proof.Machine.execSetfont w h flags data cw s
  | .setcursor x y => Sys2Proof.Machine.execSetcursor x y s
  | .wrchar ch c => Sys2Proof.Machine.execWrchar ch c s
  | .wrstr addr c => Sys2Proof.Machine.execWrstr addr c s
  | .bitmap x y addr w h c => Sys2Proof.Machine.execBitmap x y addr w h c s

end Sys2Proof.Machine
end

