-- ==== Sys2Proof/Machine/Flags.lean ====
section
/-! DEFINITION. The host's view of the block's status: the encodings of `LAST` and `STATE`, the STATUS word
(10_state.md R29), and what a read of the register window returns (20_memory.md R66). -/

namespace Sys2Proof.Machine

/-- The code of a completion status (60_exceptions.md R250). -/
def Status.code : Status → BitVec 4
  | .ok => 0#4
  | .sizeError => 1#4
  | .rangeError => 2#4
  | .unsupportedGlyph => 3#4
  | .transportError => 4#4
  | .illegal => 5#4

/-- The encoding of `STATE` (10_state.md R23). -/
def Session.code : Session → BitVec 2
  | .uninitialized => 0b00#2
  | .initializing => 0b01#2
  | .ready => 0b10#2

/-- The STATUS word (R29), from bit 31 down to bit 0: twenty reserved bits, FAULT_SRC, FAULT_PREINIT,
FONT_VALID, DISPON, LAST, one reserved bit, STATE, BUSY. -/
def statusWord (s : State) : Word :=
  0#20 ++ BitVec.ofBool s.faultSrc ++ BitVec.ofBool s.faultPreInit ++ BitVec.ofBool s.fontValid
    ++ BitVec.ofBool s.dispon ++ s.last.code ++ 0#1 ++ s.session.code ++ BitVec.ofBool s.busy

/-- The value a host read of a register offset returns (R66): it has no side effect (R67). -/
def hostRead (s : State) (offset : Nat) : Word :=
  match offset with
  | 0x04 => statusWord s
  | 0x08 => s.result.zeroExtend 32
  | _ => 0#32

end Sys2Proof.Machine
end

