-- ==== Sys2Proof/Machine/Port.lean ====
section
/-! DEFINITION. The host command port: packet assembly (10_state.md R35), the execution of a complete packet
(30_encoding.md R72, R78) and what each move of the environment does (70_reset_and_hazards.md R284). -/

namespace Sys2Proof.Machine

/-- Execute the bytes of a complete packet (R72). A packet that is no command, which a reserved opcode makes
(R78), completes ILLEGAL and changes nothing else. -/
def executePacket (p : List Byte) (s : State) : Outcome :=
  match decodePacket p with
  | .ok i => exec i s
  | .error _ => .next (s.begin.complete .illegal 0x00#8)

/-- The packet `p` is complete: it has the length its first byte selects (R71). -/
def packetComplete (p : List Byte) : Bool :=
  match p with
  | [] => false
  | op :: _ => decide (packetLen op ≤ p.length)

/-- A host write of one byte to CMD (R35): append it, and execute a packet that is complete. After a model
fault the byte is ignored until reset (60_exceptions.md R258; log entry 8); while a command waits for the
transport the host must not write (R286 (a); log entry 10). -/
def cmdWrite (b : Byte) (s : State) : Outcome :=
  if s.busy then
    if s.faulted then .next s else .fault .cmdWriteWhileBusy
  else if packetComplete (s.pkt ++ [b]) then executePacket (s.pkt ++ [b]) { s with pkt := [] }
  else .next { s with pkt := s.pkt ++ [b] }

/-- One move of the environment (R284). A write to any offset but CMD is ignored (20_memory.md R66); of a
value written to CMD bits 7:0 count. An answer with no transaction in flight is ignored (R280; log entry 14). -/
def environmentMove (m : Input) (s : State) : Outcome :=
  match m with
  | .write offset v => if offset = 0x00 then cmdWrite (v.extractLsb' 0 8) s else .next s
  | .answer a =>
    match s.wait with
    | none => .next s
    | some rest => .next (resumeTx a rest s)
  | .reset => .next s.assertReset
  | .source a b => .next { s with src := s.src.put a.toNat b }

/-- One step: the environment's next move; with none pending the block waits (log entry 11). -/
def nextMove (s : State) : Outcome :=
  match s.inputs with
  | [] => .next s
  | m :: ms => environmentMove m { s with inputs := ms }

/-- A host write of one packet byte to CMD. -/
def writeByte (b : Byte) : Input := .write 0x00 (b.zeroExtend 32)

/-- The state in which the host is about to write the last byte of packet `p`: the others have been
received, and the command port is free (log entry 6). -/
def State.withPacket (p : List Byte) (s : State) : State :=
  { s with
    pkt := p.dropLast, busy := false, wait := none,
    inputs := (p.drop (p.length - 1)).map writeByte ++ s.inputs }

end Sys2Proof.Machine
end

