-- ==== Sys2Proof/Machine/Step.lean ====
section
/-! DEFINITION. One step of the machine. A configuration that is none of the block's is refused
(00_scope.md R6). -/

namespace Sys2Proof.Machine

/-- One step (R284, R290): the environment makes its next move, and the block acts on it. -/
def step (s : State) : Host.Outcome State Fault Refusal :=
  if s.cfg.wf then nextMove s else .refused .illegalConfig

/-- `s` where the next step's move, a CMD write, completes the packet of an opcode table word. -/
def State.withFetchWord (s : State) (nbits w : Nat) : State := s.withPacket (tablePacket nbits w)

end Sys2Proof.Machine
end

