-- ==== Sys2Proof/Safety.lean ====
section
/-! DEFINITION. What the claims about the machine are said in: the invariant of the state, the conditions a
command runs under, and the shapes of a command's outcome. -/

namespace Sys2Proof.Machine

/-- What holds of the state at every step boundary. -/
structure State.Inv (s : State) : Prop where
  /-- The parameters are a configuration of the block (00_scope.md R6). -/
  cfgLegal : s.cfg.wf = true
  /-- "buffer length is constant" (20_memory.md R52, 10_state.md R33). -/
  fbSize : s.fb.length = s.cfg.bufSize
  /-- Source memory keeps its canonical form. -/
  srcCanonical : Memory.wf s.src
  /-- "A register never holds a value outside its legal range" (10_state.md R28). -/
  fontLegal : s.fontValid = true → 1 ≤ s.fontW.toNat ∧ s.fontW.toNat ≤ 16 ∧ 1 ≤ s.fontH.toNat
  /-- Until a SETFONT succeeds the font registers hold their reset values (R28). -/
  fontReset : s.fontValid = false → s.fontW = 0x00#8 ∧ s.fontH = 0x00#8 ∧ s.fontCwen = false ∧ s.fontData = 0#32 ∧ s.fontCw = 0#32
  /-- A packet that is complete has executed, so the one received so far is incomplete (10_state.md R35). -/
  pktPartial : packetComplete s.pkt = false
  /-- A block that executes has no packet half received (R35, R36). -/
  busyPkt : s.busy = true → s.pkt = []
  /-- BUSY is 1 exactly for a command that waits for the transport or after a model fault (R36). -/
  busyWhy : s.busy = (s.wait.isSome || s.faulted)
  /-- A faulted command waits for nothing (60_exceptions.md R258). -/
  waitNotFaulted : s.wait.isSome = true → s.faulted = false
  /-- A command waits only when no answer is ready. -/
  waitAnswers : s.wait.isSome = true → s.answers = []
  /-- Only INIT runs outside `Ready` (30_encoding.md R72). -/
  waitSession : s.wait.isSome = true → s.session ≠ .uninitialized
  /-- `Initializing` is held only while INIT executes (10_state.md R23), and INIT goes on where it stopped. -/
  initializing : s.session = .initializing → ∃ rest, s.wait = some rest ∧ rest ≠ [] ∧ rest <:+ initOps s.cfg
  /-- FAULT_PREINIT records a `PreInitFault` (10_state.md R32). -/
  preInitRecord : s.faultPreInit = true ↔ ∃ op, s.faultInfo = some (.preInit op)
  /-- FAULT_SRC records a `SrcFault` (R32). -/
  srcRecord : s.faultSrc = true ↔ ∃ a, s.faultInfo = some (.src a)

/-- The table of reset values (70_reset_and_hazards.md R280). The contents of the framebuffer are unspecified;
its size is not. -/
structure State.HoldsResetValues (s : State) : Prop where
  session : s.session = .uninitialized
  cursor : s.curx = 0 ∧ s.cury = 0
  dispon : s.dispon = false
  contrast : s.contrast = 0x00
  font : s.fontValid = false ∧ s.fontW = 0 ∧ s.fontH = 0 ∧ s.fontCwen = false ∧ s.fontData = 0 ∧ s.fontCw = 0
  last : s.last = .ok
  result : s.result = 0x00
  fault : s.faultPreInit = false ∧ s.faultSrc = false
  busy : s.busy = false ∧ s.wait = none
  pktLen : s.pkt.length = 0
  fbSize : s.fb.length = s.cfg.bufSize
  status : statusWord s = 0x00000000#32
  trace : s.trace = []

/-- The conditions on the state under which a legal command other than INIT runs its body (30_encoding.md
R72): a legal configuration, a framebuffer of its size, and a session that is `Ready`. -/
structure State.CanRun (s : State) : Prop where
  cfgLegal : s.cfg.wf = true
  fbSize : s.fb.length = s.cfg.bufSize
  session : s.session = .ready

/-- The command port takes the next byte: nothing executes (10_state.md R36) and the configuration is one
of the block's. -/
structure State.PortOpen (s : State) : Prop where
  cfgLegal : s.cfg.wf = true
  idle : s.busy = false

/-- `t` is `s` after a command that completed with status `st` and result `r` and otherwise changed at most
the framebuffer, whose size it kept: every other register, source memory, the trace and the environment are
as before. -/
structure FbCompleted (st : Status) (r : Byte) (s t : State) : Prop where
  frame : t = { s with fb := t.fb, last := st, result := r, busy := false }
  size : t.fb.length = s.fb.length

/-- The command completed OK with RESULT `0x00`, and its whole effect is that the in-bounds pixels of
`shape` have colour `c`: every other pixel, and everything else, is as before. -/
structure PaintedBy (c : Color) (shape : Int → Int → Prop) (s t : State) : Prop where
  completed : FbCompleted .ok 0x00#8 s t
  inside : ∀ x y : Nat, x < s.cfg.width → y < s.cfg.height → shape x y → pixel s.cfg t.fb x y = c.isOn
  outside : ∀ x y : Nat, x < s.cfg.width → y < s.cfg.height → ¬ shape x y → pixel s.cfg t.fb x y = pixel s.cfg s.fb x y

/-- The command ended in a `SrcFault` at address `a` (60_exceptions.md R258): the sticky bit is set, BUSY
stays 1, LAST and RESULT are kept, and only the framebuffer may hold what was drawn before. -/
structure SrcFaulted (a : Nat) (s t : State) : Prop where
  frame : t = { s with fb := t.fb, faultSrc := true, faultInfo := some (.src a), busy := true }
  size : t.fb.length = s.fb.length

/-- Address `a` is admitted on the source port (20_memory.md R55). -/
def Readable (m : Memory) (a : Nat) : Prop := ∃ b, srcRead m a = .ok b

/-- Address `a + k` is the first of the `n` addresses from `a` that is not admitted. -/
def FirstUnreadable (m : Memory) (a n k : Nat) : Prop := k < n ∧ (∀ j < k, Readable m (a + j)) ∧ ¬ Readable m (a + k)

/-- The transactions of a whole flush of `fb` (45_session_transport.md R232). -/
def flushTrace (cfg : Config) (fb : List Byte) : List Tx :=
  (List.range cfg.pages).flatMap fun p =>
    [.cmd (cfg.pageCmd p), .cmd cfg.lowcolCmd, .cmd cfg.highcolCmd, .data (pageBytes cfg fb p)]

/-- The payload bytes of a transaction, if it is a `write_data`. -/
def Tx.payload : Tx → List Byte
  | .cmd _ => []
  | .data bs => bs

/-- The framebuffer INIT leaves (R222 step 3). -/
def blankFb (cfg : Config) : List Byte := List.replicate cfg.bufSize 0x00#8

/-- The transactions of a whole INIT (R222): the bytes of `INIT_SEQ`, then a flush of an all-OFF buffer. -/
def initTrace (cfg : Config) : List Tx := cfg.initSeq.flatten.map .cmd ++ flushTrace cfg (blankFb cfg)

/-- The first `k` steps of `INIT_SEQ` lie within the first `n` transactions. -/
def stepsDone (cfg : Config) (k n : Nat) : Prop := (cfg.initSeq.take k).flatten.length ≤ n

/-- What the first `n` transactions of an INIT, answered OK, leave (R222, R223): FB is as before until the sequence
is sent and all OFF after it; DISPON and CONTRAST are those of the steps done. -/
structure InitReached (n : Nat) (s t : State) : Prop where
  fbKept : n < s.cfg.initSeq.flatten.length → t.fb = s.fb
  fbBlank : s.cfg.initSeq.flatten.length ≤ n → t.fb = blankFb s.cfg
  displayOn : stepsDone s.cfg 14 n → t.dispon = true
  displayOff : stepsDone s.cfg 1 n → ¬ stepsDone s.cfg 14 n → t.dispon = false
  displayKept : ¬ stepsDone s.cfg 1 n → t.dispon = s.dispon
  contrastSet : stepsDone s.cfg 7 n → t.contrast = (s.cfg.initSeq.getD 6 []).getLastD 0x00#8
  contrastKept : ¬ stepsDone s.cfg 7 n → t.contrast = s.contrast

/-- The operations that send a transaction. -/
def TxOp.sends : TxOp → Bool
  | .cmd _ => true
  | .page _ => true
  | _ => false

/-- What is left of a transport command once its first `n` transactions are issued. -/
def afterSends : Nat → List TxOp → List TxOp
  | 0, ops => ops
  | _, [] => []
  | n + 1, op :: ops => if op.sends then afterSends n ops else afterSends (n + 1) ops

/-- The end of a run (70_reset_and_hazards.md R290): nothing executes, no packet is half received, and the
environment makes no further move. -/
structure State.Ended (s : State) : Prop where
  idle : s.busy = false
  noPacket : s.pkt = []
  noMove : s.inputs = []

end Sys2Proof.Machine
end

