-- ==== Sys2Proof/Certificates/Slice0/Obligations.lean ====
section
/-! DEFINITION. The statements about the block. Each docstring names the rule of spec/ it formalises; a clause
that is the model's own choice says so and names its log entry. -/

open Sys2Proof Sys2Proof.Machine

/-! ## Encoding -/

/-- R70, R73, R77: the packet of every command, legal or not, decodes to that command, whatever bytes follow
it in the stream, and those bytes are left. -/
def Obligations.DecodeOfEncodeIsTheCommand : Prop :=
  ∀ (i : Instr) (rest : List Byte), decode (encode i ++ rest) = .ok (i, rest)

/-- R77: a packet that decodes to a command is that command's packet, so no two packets mean one command. -/
def Obligations.EncodeOfDecodeIsThePacket : Prop :=
  ∀ (p : List Byte) (i : Instr), decodePacket p = .ok i → encode i = p

/-- R77 with the field types of R74: the opcode byte and the operand fields of every command, a `u16` and a `u32`
least significant byte first. -/
def Obligations.PacketFieldsStandAsListed : Prop :=
  let u16 := fun b0 b1 : Byte => BitVec.ofNat 16 (b0.toNat + b1.toNat * 2 ^ 8)
  let u32 := fun b0 b1 b2 b3 : Byte => BitVec.ofNat 32 (b0.toNat + b1.toNat * 2 ^ 8 + b2.toNat * 2 ^ 16 + b3.toNat * 2 ^ 24)
  decodePacket [0x01] = .ok .init ∧ decodePacket [0x04] = .ok .flush ∧ decodePacket [0x07] = .ok .getdisp ∧
  ∀ a b c d e f g h i j k : Byte,
    decodePacket [0x02, a] = .ok (.fill a) ∧
    decodePacket [0x03, a, b, c, d, e, f] = .ok (.load (u32 a b c d) (u16 e f)) ∧
    decodePacket [0x05, a] = .ok (.setcontrast a) ∧ decodePacket [0x06, a] = .ok (.setdisp a) ∧
    decodePacket [0x10, a, b, c] = .ok (.pixel a b c) ∧
    decodePacket [0x11, a, b, c, d, e] = .ok (.line a b c d e) ∧
    decodePacket [0x12, a, b, c, d, e, f, g] = .ok (.polyline (u32 a b c d) (u16 e f) g) ∧
    decodePacket [0x13, a, b, c, d, e] = .ok (.rect a b c d e) ∧
    decodePacket [0x14, a, b, c, d, e] = .ok (.fillrect a b c d e) ∧
    decodePacket [0x15, a, b, c, d] = .ok (.invrect a b c d) ∧
    decodePacket [0x16, a, b, c, d] = .ok (.circle a b c d) ∧
    decodePacket [0x17, a, b, c, d] = .ok (.fillcircle a b c d) ∧
    decodePacket [0x18, a, b, c, d, e, f, g, h] = .ok (.arc a b c (u16 d e) (u16 f g) h) ∧
    decodePacket [0x19, a, b, c, d, e, f, g, h] = .ok (.arcrl a b c (u16 d e) (u16 f g) h) ∧
    decodePacket [0x1A, a, b, c, d, e, f, g] = .ok (.filltri a b c d e f g) ∧
    decodePacket [0x20, a, b, c, d, e, f, g, h, i, j, k] = .ok (.setfont a b c (u32 d e f g) (u32 h i j k)) ∧
    decodePacket [0x21, a, b, c, d] = .ok (.setcursor (u16 a b) (u16 c d)) ∧
    decodePacket [0x22, a, b] = .ok (.wrchar a b) ∧
    decodePacket [0x23, a, b, c, d, e] = .ok (.wrstr (u32 a b c d) e) ∧
    decodePacket [0x28, a, b, c, d, e, f, g, h, i] = .ok (.bitmap a b (u32 c d e f) g h i)

/-- R71: the bytes after an opcode make a command exactly when the opcode is assigned and the packet has
its length; a reserved opcode and a wrong length are rejected by name. -/
def Obligations.PacketDecodesExactlyAtItsLength : Prop :=
  ∀ (op : Byte) (ops : List Byte),
    ((∃ i, decodePacket (op :: ops) = .ok i) ↔ reservedOpcode op = false ∧ ops.length + 1 = packetLen op) ∧
    (reservedOpcode op = true → decodePacket (op :: ops) = .error (.reserved op)) ∧
    (reservedOpcode op = false → ops.length + 1 ≠ packetLen op → decodePacket (op :: ops) = .error (.wrongLength op))

/-- Packets written out in the rules' own examples decode to the commands they stand for (R80, R102, R104,
R190, R194, R210, R174). -/
def Obligations.SpecPacketsDecodeAsWritten : Prop :=
  decodePacket [0x11, 0x00, 0x00, 0x09, 0x00, 0x01] = .ok (.line 0 0 9 0 1) ∧
  decodePacket [0x03, 0x00, 0x01, 0x00, 0x00, 0x02, 0x00] = .ok (.load 0x100 2) ∧
  decodePacket [0x20, 0x03, 0x05, 0x00, 0x00, 0x10, 0x00, 0x00, 0x00, 0x00, 0x00, 0x00] = .ok (.setfont 3 5 0 0x1000 0) ∧
  decodePacket [0x21, 0x2C, 0x01, 0x00, 0x00] = .ok (.setcursor 300 0) ∧
  decodePacket [0x28, 0x00, 0x00, 0x00, 0x03, 0x00, 0x00, 0x03, 0x03, 0x01] = .ok (.bitmap 0 0 0x300 3 3 1) ∧
  decodePacket [0x18, 0x14, 0x14, 0x0A, 0x00, 0x00, 0x5A, 0x00, 0x01] = .ok (.arc 20 20 10 0 90 1)

/-! ## The command port -/

/-- When the byte the host writes completes a packet that decodes to `i`, the step is `exec` of `i`, at the
state with that move taken and no packet half received (R35, R72). -/
def Obligations.StepRunsTheDecodedCommand : Prop :=
  ∀ (s : State) (v : Word) (ms : List Input) (i : Instr), s.PortOpen → s.inputs = .write 0 v :: ms →
    decodePacket (s.pkt ++ [v.extractLsb' 0 8]) = .ok i → step s = exec i { s with inputs := ms, pkt := [] }

/-- R35: a byte that does not complete a packet is appended, and nothing else changes. -/
def Obligations.UnfinishedPacketWaitsForMoreBytes : Prop :=
  ∀ (s : State) (v : Word) (ms : List Input) (op : Byte) (ops : List Byte), s.PortOpen → s.inputs = .write 0 v :: ms →
    s.pkt ++ [v.extractLsb' 0 8] = op :: ops → (op :: ops).length < packetLen op →
    step s = .next { s with inputs := ms, pkt := op :: ops }

/-- R72, R73: writing the bytes of any command's packet to CMD, one byte a step, from a free command port,
runs exactly that command; the host's later moves are untouched. -/
def Obligations.WrittenPacketRunsTheCommand : Prop :=
  ∀ (s : State) (i : Instr) (ms : List Input), s.PortOpen → s.pkt = [] →
    Host.Core.run core (encode i).length { s with inputs := (encode i).map writeByte ++ ms } = exec i { s with inputs := ms }

/-- R78: the reserved opcodes are the listed bytes, and such a byte received as an opcode is a one-byte packet
that completes ILLEGAL with RESULT `0x00`; nothing else changes. -/
def Obligations.ReservedByteCompletesIllegal : Prop :=
  (∀ op : Byte, reservedOpcode op = true ↔
    op.toNat = 0x00 ∨ (0x08 ≤ op.toNat ∧ op.toNat ≤ 0x0F) ∨ (0x1B ≤ op.toNat ∧ op.toNat ≤ 0x1F) ∨
    (0x24 ≤ op.toNat ∧ op.toNat ≤ 0x27) ∨ 0x29 ≤ op.toNat) ∧
  (∀ (s : State) (op : Byte) (ms : List Input), s.PortOpen → s.pkt = [] → reservedOpcode op = true →
    step { s with inputs := writeByte op :: ms } = .next { s with inputs := ms, last := .illegal, result := 0x00#8 })

/-- R66: what the host reads at each offset of the register window; writes to STATUS, RESULT and the reserved
offsets are ignored; of a value written to CMD bits 7:0 are the next packet byte and bits 31:8 are ignored. -/
def Obligations.RegisterWindowReadsAndWrites : Prop :=
  (∀ s : State, hostRead s 0x00 = 0#32 ∧ hostRead s 0x04 = statusWord s ∧
    (hostRead s 0x08).extractLsb' 0 8 = s.result ∧ (hostRead s 0x08).extractLsb' 8 24 = 0#24) ∧
  (∀ (s : State) (offset : Nat), 0x0C ≤ offset → hostRead s offset = 0#32) ∧
  (∀ (s : State) (offset : Nat) (v : Word) (ms : List Input), s.cfg.wf = true → s.inputs = .write offset v :: ms →
    offset = 0x04 ∨ offset = 0x08 ∨ 0x0C ≤ offset → step s = .next { s with inputs := ms }) ∧
  (∀ (s : State) (b : Byte) (hi : BitVec 24) (ms : List Input), s.PortOpen → packetComplete (s.pkt ++ [b]) = false →
    step { s with inputs := .write 0x00 (hi ++ b) :: ms } = .next { s with inputs := ms, pkt := s.pkt ++ [b] }) ∧
  (∀ (s : State) (b : Byte) (hi : BitVec 24) (ms : List Input), s.PortOpen → packetComplete (s.pkt ++ [b]) = true →
    step { s with inputs := .write 0x00 (hi ++ b) :: ms } = executePacket (s.pkt ++ [b]) { s with inputs := ms, pkt := [] })

/-- R29, with the encodings of R23 and R250: the fields of STATUS; a host write to it is ignored; its reset value
is 0. -/
def Obligations.StatusWordHoldsTheListedFields : Prop :=
  (∀ s : State,
    (statusWord s).extractLsb' 0 1 = BitVec.ofBool s.busy ∧
    (statusWord s).extractLsb' 1 2 =
      (match s.session with | .uninitialized => 0b00#2 | .initializing => 0b01#2 | .ready => 0b10#2) ∧
    (statusWord s).getLsbD 3 = false ∧
    (statusWord s).extractLsb' 4 4 =
      (match s.last with
        | .ok => 0#4 | .sizeError => 1#4 | .rangeError => 2#4 | .unsupportedGlyph => 3#4
        | .transportError => 4#4 | .illegal => 5#4) ∧
    (statusWord s).getLsbD 8 = s.dispon ∧ (statusWord s).getLsbD 9 = s.fontValid ∧
    (statusWord s).getLsbD 10 = s.faultPreInit ∧ (statusWord s).getLsbD 11 = s.faultSrc ∧
    (statusWord s).extractLsb' 12 20 = 0#20) ∧
  (∀ (s : State) (v : Word) (ms : List Input), s.cfg.wf = true →
    step { s with inputs := .write 0x04 v :: ms } = .next { s with inputs := ms }) ∧
  statusWord State.reset = 0x00000000#32

/-! ## Reset, faults, priority -/

/-- R280: the state after power-on, and the state after the host asserts reset in any state (executing, waiting,
faulted), hold the listed values: the sticky bits are clear, no transaction is in flight, and an answer to one
that was in flight is ignored. Nothing is sent: the trace is empty. -/
def Obligations.ResetLeavesTheListedValues : Prop :=
  State.reset.HoldsResetValues ∧
  (∀ (s : State) (ms : List Input), s.cfg.wf = true → s.inputs = .reset :: ms →
    ∃ t, step s = .next t ∧ t.HoldsResetValues ∧ t.inputs = ms ∧
      ∀ (a : Answer) (ms' : List Input), step { t with inputs := .answer a :: ms' } = .next { t with inputs := ms' })

/-- R280, R264: the host's reset, from any state (executing, waiting, faulted), gives the reset state; a
transaction in flight is abandoned. That the parameters and the environment stay is the model's reading (log
entry 16), and the count of resets its own field (log entry 4). -/
def Obligations.HostResetReturnsToTheResetState : Prop :=
  ∀ (s : State) (ms : List Input), s.cfg.wf = true → s.inputs = .reset :: ms →
    step s = .next (State.resetWith s.cfg s.src s.answers ms (s.resets + 1))

/-- R256, R79: a command with an illegal operand value completes ILLEGAL, in every session state, and
changes only LAST, RESULT and BUSY. -/
def Obligations.IllegalOperandsCompleteIllegal : Prop :=
  ∀ (i : Instr) (s : State), i.wf = false → exec i s = .next { s with last := .illegal, result := 0x00#8, busy := false }

/-- R257, R258: a legal command other than INIT in a session that is not `Ready` is a `PreInitFault`:
STATUS[10] is set, BUSY stays 1, nothing else changes. (The record of the opcode is the model's own, log
entry 9.) -/
def Obligations.CommandBeforeReadyIsPreInitFault : Prop :=
  ∀ (i : Instr) (s : State), i ≠ .init → i.wf = true → s.session ≠ .ready →
    exec i s = .next { s with faultPreInit := true, faultInfo := some (.preInit (opcodeOf i)), busy := true }

/-- R258: a block stopped by a model fault accepts no packet: of the environment's moves, short of reset, a host
write and a transport answer change nothing, a change of the host's own source memory changes that alone, and with
no move pending nothing changes. The model's choices here: that a CMD write is ignored, not refused (log entry 8);
a step with no move (log entry 11); a write to an offset that R66 does not list (log entry 12); that the host may
change source memory then (log entry 13); an answer with nothing in flight (log entry 14). -/
def Obligations.FaultedBlockStaysStopped : Prop :=
  ∀ (s : State) (ms : List Input), s.Inv → s.faulted = true →
    (∀ offset v, s.inputs = .write offset v :: ms → step s = .next { s with inputs := ms }) ∧
    (∀ a, s.inputs = .answer a :: ms → step s = .next { s with inputs := ms }) ∧
    (∀ a b, s.inputs = .source a b :: ms → step s = .next { s with inputs := ms, src := s.src.put a.toNat b }) ∧
    (s.inputs = [] → step s = .next s)

/-- R257, R55: a `SrcFault` is raised only by a legal command that reads source memory, and its recorded
address is one the port does not admit. What the port admits: no address of `2^32` or more (R55); after the host
sets an address, what it set there and at every other address what was there (R65); and `n` bytes read together
are little-endian, with the first address that is not admitted deciding the fault (R56, R62 (c)). The model's
choices here: the record of the address (log entry 9), and that the host may change source memory before any step
(log entry 13). -/
def Obligations.SrcFaultNamesAnUnadmittedAddress : Prop :=
  (∀ (i : Instr) (s t : State), exec i s = .next t → s.faultSrc = false → t.faultSrc = true →
    i.wf = true ∧ s.session = .ready ∧ t.busy = true ∧
    (∃ a, t.faultInfo = some (.src a) ∧ ¬ Readable s.src a) ∧
    ((∃ a n, i = .load a n) ∨ (∃ a n c, i = .polyline a n c) ∨ (∃ h c, i = .wrchar h c) ∨ (∃ a c, i = .wrstr a c) ∨
      (∃ x y a w h c, i = .bitmap x y a w h c))) ∧
  (∀ (m : Memory) (a : Nat), 2 ^ 32 ≤ a → srcRead m a = .error a) ∧
  (∀ (s : State) (a : Word) (v : Option Byte) (ms : List Input), s.cfg.wf = true → Memory.wf s.src →
    s.inputs = .source a v :: ms →
    ∃ src, step s = .next { s with inputs := ms, src := src } ∧ Memory.wf src ∧
      srcRead src a.toNat = (match v with | some b => .ok b | none => .error a.toNat) ∧
      ∀ a', a' ≠ a.toNat → srcRead src a' = srcRead s.src a') ∧
  (∀ (m : Memory) (a n : Nat) (f : Nat → Byte), (∀ i < n, srcRead m (a + i) = .ok (f i)) →
    memRead m a n = .ok ((List.range n).map fun i => (f i).toNat * 2 ^ (8 * i)).sum) ∧
  (∀ (m : Memory) (a n k : Nat), FirstUnreadable m a n k → memRead m a n = .error (a + k))

/-! ## Invariants and whole-machine rules -/

/-- The invariant of the state (Safety.lean) is kept by every step, from every state that has it. -/
def Obligations.EveryStepKeepsTheInvariant : Prop :=
  ∀ s t : State, s.Inv → step s = .next t → t.Inv

/-- The invariant holds after reset under every legal configuration and canonical source memory. -/
def Obligations.ResetHasTheInvariant : Prop :=
  ∀ (cfg : Config) (src : Memory) (as : List Answer) (ms : List Input) (n : Nat), cfg.wf = true → Memory.wf src →
    (State.resetWith cfg src as ms n).Inv

/-- Every command answers a next state in every state: none of them faults or is refused. -/
def Obligations.EveryCommandAnswersANextState : Prop := ∀ (i : Instr) (s : State), ∃ t, exec i s = .next t

/-- R50, R55, R52, R60: no command writes source memory or the parameters, makes a move for the environment, or
changes the size of the framebuffer; a command only ever appends to the trace, and only INIT, FLUSH,
SETCONTRAST and SETDISP send. -/
def Obligations.CommandsKeepToTheirPorts : Prop :=
  ∀ (i : Instr) (s t : State), s.fb.length = s.cfg.bufSize → exec i s = .next t →
    t.src = s.src ∧ t.cfg = s.cfg ∧ t.inputs = s.inputs ∧ t.pkt = s.pkt ∧ t.resets = s.resets ∧
    t.fb.length = s.cfg.bufSize ∧ (s.trace <+: t.trace) ∧
    (i ≠ .init → i ≠ .flush → (∀ v, i ≠ .setcontrast v) → (∀ b, i ≠ .setdisp b) → t.trace = s.trace ∧ t.answers = s.answers)

/-- R20, "written by": STATE only by INIT, CURY only by SETCURSOR and INIT, CURX also by WRCHAR and WRSTR,
DISPON only by SETDISP and INIT, CONTRAST only by SETCONTRAST and INIT, the font registers only by SETFONT. -/
def Obligations.RegistersChangeOnlyByTheirWriters : Prop :=
  ∀ (i : Instr) (s t : State), exec i s = .next t →
    (i ≠ .init → t.session = s.session) ∧
    (i ≠ .init → (∀ x y, i ≠ .setcursor x y) → t.cury = s.cury) ∧
    (i ≠ .init → (∀ x y, i ≠ .setcursor x y) → (∀ h c, i ≠ .wrchar h c) → (∀ a c, i ≠ .wrstr a c) → t.curx = s.curx) ∧
    (i ≠ .init → (∀ b, i ≠ .setdisp b) → t.dispon = s.dispon) ∧
    (i ≠ .init → (∀ v, i ≠ .setcontrast v) → t.contrast = s.contrast) ∧
    ((∀ w h f d cw, i ≠ .setfont w h f d cw) →
      t.fontValid = s.fontValid ∧ t.fontW = s.fontW ∧ t.fontH = s.fontH ∧ t.fontCwen = s.fontCwen ∧
      t.fontData = s.fontData ∧ t.fontCw = s.fontCw)

/-- R32: no command clears a fault bit; R36, R30, R31: while a command has not completed (it waits, or has
faulted) LAST and RESULT are the previous command's; a completed command other than GETDISP, WRCHAR and WRSTR
leaves RESULT `0x00`. -/
def Obligations.FaultBitsStickAndResultsWaitForCompletion : Prop :=
  ∀ (i : Instr) (s t : State), exec i s = .next t →
    (s.faultPreInit = true → t.faultPreInit = true) ∧ (s.faultSrc = true → t.faultSrc = true) ∧
    (t.busy = true → t.last = s.last ∧ t.result = s.result) ∧
    (t.busy = false → i ≠ .getdisp → (∀ h c, i ≠ .wrchar h c) → (∀ a c, i ≠ .wrstr a c) → t.result = 0x00#8)

/-- R250: which commands complete with which code, and when. A WRSTR that ends at a character it does not write
leaves that character in RESULT and the cursor before it (R204), so its conditions are said of `t`. -/
def Obligations.StatusCodesHaveTheListedCauses : Prop :=
  ∀ (i : Instr) (s t : State), exec i s = .next t → t.busy = false →
    (t.last = .sizeError → ∃ a n, i = .load a n ∧ s.cfg.bufSize < n.toNat) ∧
    (t.last = .rangeError →
      (∃ x1 y1 x2 y2, i = .invrect x1 y1 x2 y2 ∧
        (s.cfg.width ≤ x2.toNat ∨ s.cfg.height ≤ y2.toNat ∨ x2.toNat < x1.toNat ∨ y2.toNat < y1.toNat)) ∨
      (∃ h c, i = .wrchar h c ∧ 32 ≤ h.toNat ∧ h.toNat ≤ 126 ∧
        (s.cfg.width < s.curx.toNat + s.fontW.toNat ∨ s.cfg.height < s.cury.toNat + s.fontH.toNat)) ∨
      (∃ a c, i = .wrstr a c ∧ 32 ≤ t.result.toNat ∧ t.result.toNat ≤ 126 ∧
        (t.cfg.width < t.curx.toNat + t.fontW.toNat ∨ t.cfg.height < t.cury.toNat + t.fontH.toNat))) ∧
    (t.last = .unsupportedGlyph →
      (∃ h c, i = .wrchar h c ∧ (h.toNat < 32 ∨ 126 < h.toNat)) ∨
      (∃ a c, i = .wrstr a c ∧ (t.result.toNat < 32 ∨ 126 < t.result.toNat))) ∧
    (t.last = .transportError →
      (i = .init ∨ i = .flush ∨ (∃ v, i = .setcontrast v) ∨ (∃ b, i = .setdisp b)) ∧ .err ∈ s.answers) ∧
    (t.last = .illegal → i.wf = false ∨ (((∃ h c, i = .wrchar h c) ∨ (∃ a c, i = .wrstr a c)) ∧ s.fontValid = false))

/-- 93_implementation_defined.md S1, R33: what the framebuffer holds before INIT is never observed: two
states that differ in it alone, in a session that is not `Ready`, go on alike under every command, and are
one state again once the session is `Ready`. -/
def Obligations.FramebufferBeforeInitIsUnobserved : Prop :=
  ∀ (i : Instr) (s t : State) (fb : List Byte), s.session ≠ .ready → s.fb.length = fb.length → exec i s = .next t →
    ∃ t', exec i { s with fb := fb } = .next t' ∧ t' = { t with fb := t'.fb } ∧ (t.session = .ready → t' = t)

/-! ## Framebuffer store -/

/-- R101: the laws of `plot`, for points anywhere and buffers of the block's size: (a) twice is once, (b) two
plots of different points commute, (c) ON then OFF at an in-bounds point leaves its bit 0, (d) an out-of-bounds
plot changes nothing; and R100: only the one bit can change. -/
def Obligations.PlotObeysItsLaws : Prop :=
  ∀ (cfg : Config) (fb : List Byte) (p q : Point) (c d : Color), cfg.wf = true → fb.length = cfg.bufSize →
    plot cfg c p (plot cfg c p fb) = plot cfg c p fb ∧
    (p ≠ q → plot cfg c p (plot cfg d q fb) = plot cfg d q (plot cfg c p fb)) ∧
    (inBounds cfg p = true → pixel cfg (plot cfg .off p (plot cfg .on p fb)) p.x.toNat p.y.toNat = false) ∧
    (inBounds cfg p = false → plot cfg c p fb = fb) ∧
    (∀ x y : Nat, x < cfg.width → y < cfg.height →
      pixel cfg (plot cfg c p fb) x y = if (⟨x, y⟩ : Point) = p then c.isOn else pixel cfg fb x y)

/-- R102 with R75: FILL completes OK and every framebuffer byte is `0xFF` for the operand byte `0x01` (ON) and `0x00`
for `0x00` (OFF); every pixel has the colour. The colour of every drawing command is read the same way: `colorOf` is
ON for `0x01` and OFF for `0x00`, and an ON pixel reads true, an OFF one false. -/
def Obligations.FillSetsEveryByte : Prop :=
  (∀ (s : State) (c : Byte), s.CanRun → (Instr.fill c).wf = true →
    ∃ t, exec (.fill c) s = .next t ∧ PaintedBy (colorOf c) (fun _ _ => True) s t ∧
      (c = 0x01#8 → t.fb = List.replicate s.cfg.bufSize 0xFF#8) ∧
      (c = 0x00#8 → t.fb = List.replicate s.cfg.bufSize 0x00#8)) ∧
  (colorOf 0x01#8 = .on ∧ colorOf 0x00#8 = .off ∧ Color.on.isOn = true ∧ Color.off.isOn = false)

/-- R104: LOAD. A length over BUF_SIZE completes SIZE_ERROR; otherwise, where every byte is admitted, the
first `len` framebuffer bytes are the source bytes and the others keep their values; where one is not, the
command ends in a SrcFault at the first such address. -/
def Obligations.LoadCopiesTheImage : Prop :=
  ∀ (s : State) (addr : Word) (len : Half), s.CanRun →
    (s.cfg.bufSize < len.toNat →
      exec (.load addr len) s = .next { s with last := .sizeError, result := 0x00#8, busy := false }) ∧
    (len.toNat ≤ s.cfg.bufSize →
      (∀ img : Nat → Byte, (∀ k < len.toNat, srcRead s.src (addr.toNat + k) = .ok (img k)) →
        ∃ t, exec (.load addr len) s = .next t ∧ FbCompleted .ok 0x00#8 s t ∧
          ∀ k < s.cfg.bufSize, t.fb[k]? = if k < len.toNat then some (img k) else s.fb[k]?) ∧
      (∀ k, FirstUnreadable s.src addr.toNat len.toNat k →
        ∃ t, exec (.load addr len) s = .next t ∧ SrcFaulted (addr.toNat + k) s t))

/-- R106: PIXEL. -/
def Obligations.PixelSetsOnePixel : Prop :=
  ∀ (s : State) (x y c : Byte), s.CanRun → (Instr.pixel x y c).wf = true →
    ∃ t, exec (.pixel x y c) s = .next t ∧ PaintedBy (colorOf c) (fun px py => px = x.toNat ∧ py = y.toNat) s t

/-! ## Lines -/

/-- R122 (a) to (e), for any integer endpoints: both endpoints are emitted, no point twice,
`max(dx, dy) + 1` in all, successive points of the loop are 8-connected, equal endpoints give one point, and the
point set of some line differs from that of the line back. -/
def Obligations.LinePointsHaveTheListedProperties : Prop :=
  (∃ p q r : Point, r ∈ linePts p q ∧ r ∉ linePts q p) ∧ ∀ p q : Point,
    p ∈ linePts p q ∧ q ∈ linePts p q ∧ (linePts p q).Nodup ∧
    (linePts p q).length = max (q.x - p.x).natAbs (q.y - p.y).natAbs + 1 ∧
    ((linePts p q).tail ++ [q]).IsChain (fun a b => (b.x - a.x).natAbs ≤ 1 ∧ (b.y - a.y).natAbs ≤ 1) ∧
    linePts p p = [p]

/-- R121: LINE paints the points of `LinePts`, clipped, and completes OK. -/
def Obligations.LinePaintsItsPoints : Prop :=
  ∀ (s : State) (x1 y1 x2 y2 c : Byte), s.CanRun → (Instr.line x1 y1 x2 y2 c).wf = true →
    ∃ t, exec (.line x1 y1 x2 y2 c) s = .next t ∧
      PaintedBy (colorOf c) (fun x y => ⟨x, y⟩ ∈ linePts (pointOf x1 y1) (pointOf x2 y2)) s t

/-- R124: POLYLINE. Address 0 or fewer than two vertices is a no-op that reads nothing; where every vertex
byte is admitted it paints the segment from each vertex to the next; where one is not, it ends in a SrcFault
at the first such address. -/
def Obligations.PolylinePaintsItsSegments : Prop :=
  ∀ (s : State) (addr : Word) (count : Half) (c : Byte), s.CanRun → (Instr.polyline addr count c).wf = true →
    (addr = 0 ∨ count.toNat < 2 →
      exec (.polyline addr count c) s = .next { s with last := .ok, result := 0x00#8, busy := false }) ∧
    (addr ≠ 0 → 2 ≤ count.toNat →
      (∀ vx vy : Nat → Byte,
        (∀ k < count.toNat, srcRead s.src (addr.toNat + 2 * k) = .ok (vx k) ∧
          srcRead s.src (addr.toNat + 2 * k + 1) = .ok (vy k)) →
        ∃ t, exec (.polyline addr count c) s = .next t ∧
          PaintedBy (colorOf c)
            (fun x y => ∃ k, k + 1 < count.toNat ∧
              ⟨x, y⟩ ∈ linePts (pointOf (vx k) (vy k)) (pointOf (vx (k + 1)) (vy (k + 1)))) s t) ∧
      (∀ k, FirstUnreadable s.src addr.toNat (2 * count.toNat) k →
        ∃ t, exec (.polyline addr count c) s = .next t ∧ SrcFaulted (addr.toNat + k) s t))

/-- R126: RECT paints the outline of the closed rectangle, whichever way its corners are given. -/
def Obligations.RectPaintsTheOutline : Prop :=
  ∀ (s : State) (x1 y1 x2 y2 c : Byte), s.CanRun → (Instr.rect x1 y1 x2 y2 c).wf = true →
    ∃ t, exec (.rect x1 y1 x2 y2 c) s = .next t ∧
      PaintedBy (colorOf c)
        (fun x y => min x1.toNat x2.toNat ≤ x ∧ x ≤ max x1.toNat x2.toNat ∧ min y1.toNat y2.toNat ≤ y ∧
          y ≤ max y1.toNat y2.toNat ∧ (x = x1.toNat ∨ x = x2.toNat ∨ y = y1.toNat ∨ y = y2.toNat)) s t

/-! ## Area operations -/

/-- R140: FILLRECT paints the closed rectangle, whichever way its corners are given. -/
def Obligations.FillRectPaintsTheRectangle : Prop :=
  ∀ (s : State) (x1 y1 x2 y2 c : Byte), s.CanRun → (Instr.fillrect x1 y1 x2 y2 c).wf = true →
    ∃ t, exec (.fillrect x1 y1 x2 y2 c) s = .next t ∧
      PaintedBy (colorOf c)
        (fun x y => min x1.toNat x2.toNat ≤ x ∧ x ≤ max x1.toNat x2.toNat ∧ min y1.toNat y2.toNat ≤ y ∧
          y ≤ max y1.toNat y2.toNat) s t

/-- R142: INVRECT. A rectangle out of range completes RANGE_ERROR with nothing else changed; otherwise it
completes OK, every pixel of the closed rectangle is flipped, and every other pixel is as before. -/
def Obligations.InvRectFlipsTheRectangle : Prop :=
  ∀ (s : State) (x1 y1 x2 y2 : Byte), s.CanRun →
    (s.cfg.width ≤ x2.toNat ∨ s.cfg.height ≤ y2.toNat ∨ x2.toNat < x1.toNat ∨ y2.toNat < y1.toNat →
      exec (.invrect x1 y1 x2 y2) s = .next { s with last := .rangeError, result := 0x00#8, busy := false }) ∧
    (x2.toNat < s.cfg.width → y2.toNat < s.cfg.height → x1.toNat ≤ x2.toNat → y1.toNat ≤ y2.toNat →
      ∃ t, exec (.invrect x1 y1 x2 y2) s = .next t ∧ FbCompleted .ok 0x00#8 s t ∧
        ∀ x y : Nat, x < s.cfg.width → y < s.cfg.height →
          pixel s.cfg t.fb x y =
            if x1.toNat ≤ x ∧ x ≤ x2.toNat ∧ y1.toNat ≤ y ∧ y ≤ y2.toNat then !pixel s.cfg s.fb x y
            else pixel s.cfg s.fb x y)

/-- R142: "applying the same INVRECT twice restores `FB` exactly", byte for byte, for every operand. -/
def Obligations.InvRectTwiceRestoresTheBuffer : Prop :=
  ∀ (s t u : State) (x1 y1 x2 y2 : Byte), s.CanRun → exec (.invrect x1 y1 x2 y2) s = .next t →
    exec (.invrect x1 y1 x2 y2) t = .next u → u.fb = s.fb

/-- R143: the byte-mask form of INVRECT has exactly the effect of the pixel form, for every legal rectangle. -/
def Obligations.ByteMaskInversionEqualsPixelInversion : Prop :=
  ∀ (cfg : Config) (fb : List Byte) (x1 y1 x2 y2 : Nat), cfg.wf = true → fb.length = cfg.bufSize →
    invRange cfg x1 y1 x2 y2 = true → invertRectBytes cfg x1 y1 x2 y2 fb = invertRect cfg x1 y1 x2 y2 fb

/-- R146: `RDiv(n, d)` is the nearest integer to `n / d`, and a tie goes away from zero; `EdgeX` is the edge's
column by it, and the first point's column on a zero-height edge. -/
def Obligations.RDivRoundsToNearestAwayFromZero : Prop :=
  (∀ n d : Int, 0 < d →
    2 * (n - d * rdiv n d).natAbs ≤ d ∧ (2 * ((n - d * rdiv n d).natAbs : Int) = d → n.natAbs < (d * rdiv n d).natAbs)) ∧
  (∀ (p q : Point) (y : Int),
    (q.y = p.y → edgeX p q y = p.x) ∧
    (p.y < q.y → edgeX p q y = p.x + rdiv ((y - p.y) * (q.x - p.x)) (q.y - p.y) ∧ edgeX p q p.y = p.x ∧ edgeX p q q.y = q.x))

/-- R147: every row from the top vertex to the bottom vertex gets exactly one span, both ends included, and
no other row gets a point. With the vertices in any order of ascending rows `v0`, `v1`, `v2`, the span of a row
runs between the columns of the long edge and of the upper or the lower short edge; a triangle of zero height is
the row from its least to its greatest column. The three vertices are points. -/
def Obligations.TriangleGivesEachRowOneSpan : Prop :=
  (∀ (a b c : Point) (y : Int),
    (min (min a.y b.y) c.y ≤ y ∧ y ≤ max (max a.y b.y) c.y →
      ∃ lo hi, lo ≤ hi ∧ ∀ x, ⟨x, y⟩ ∈ triPts a b c ↔ lo ≤ x ∧ x ≤ hi) ∧
    (y < min (min a.y b.y) c.y ∨ max (max a.y b.y) c.y < y → ∀ x, ⟨x, y⟩ ∉ triPts a b c)) ∧
  (∀ a b c v0 v1 v2 : Point, [v0, v1, v2].Perm [a, b, c] → v0.y ≤ v1.y → v1.y ≤ v2.y →
    (v0.y = v2.y → ∀ x, ⟨x, v0.y⟩ ∈ triPts a b c ↔ min (min v0.x v1.x) v2.x ≤ x ∧ x ≤ max (max v0.x v1.x) v2.x) ∧
    (v0.y < v2.y → ∀ x y, v0.y ≤ y → y ≤ v2.y →
      let xa := edgeX v0 v2 y
      let xb := if y < v1.y then edgeX v0 v1 y else edgeX v1 v2 y
      (⟨x, y⟩ ∈ triPts a b c ↔ min xa xb ≤ x ∧ x ≤ max xa xb))) ∧
  (∀ a b c : Point, a ∈ triPts a b c ∧ b ∈ triPts a b c ∧ c ∈ triPts a b c)

/-- R148: FILLTRI paints the points of `TriPts`, clipped, and completes OK for every operand. -/
def Obligations.FillTriPaintsItsPoints : Prop :=
  ∀ (s : State) (x0 y0 x1 y1 x2 y2 c : Byte), s.CanRun → (Instr.filltri x0 y0 x1 y1 x2 y2 c).wf = true →
    ∃ t, exec (.filltri x0 y0 x1 y1 x2 y2 c) s = .next t ∧
      PaintedBy (colorOf c) (fun x y => ⟨x, y⟩ ∈ triPts (pointOf x0 y0) (pointOf x1 y1) (pointOf x2 y2)) s t

/-! ## Circles and arcs -/

/-- R160: the circle loop ends within `2 r + 1` passes (more fuel changes nothing), and every emitted offset
has `-r <= x <= 0 <= y <= r`. -/
def Obligations.CircleStepsEndInsideTheRadius : Prop :=
  ∀ r n : Nat,
    circleLoop (2 * r + 1 + n) (-(r : Int)) 0 (2 - 2 * (r : Int)) = circleSteps r ∧ (circleSteps r).length ≤ 2 * r + 1 ∧
    ∀ p ∈ circleSteps r, -(r : Int) ≤ p.x ∧ p.x ≤ 0 ∧ 0 ≤ p.y ∧ p.y ≤ r

/-- R162, R164: CIRCLE and FILLCIRCLE. A centre out of bounds paints nothing; otherwise the points of
`CirclePts`, of `FillCirclePts`, are painted, clipped. Both always complete OK. -/
def Obligations.CirclesPaintTheirPoints : Prop :=
  (∀ (s : State) (cx cy r c : Byte), s.CanRun → (Instr.circle cx cy r c).wf = true →
    ∃ t, exec (.circle cx cy r c) s = .next t ∧
      PaintedBy (colorOf c)
        (fun x y => cx.toNat < s.cfg.width ∧ cy.toNat < s.cfg.height ∧ ⟨x, y⟩ ∈ circlePts cx.toNat cy.toNat r.toNat) s t) ∧
  (∀ (s : State) (cx cy r c : Byte), s.CanRun → (Instr.fillcircle cx cy r c).wf = true →
    ∃ t, exec (.fillcircle cx cy r c) s = .next t ∧
      PaintedBy (colorOf c)
        (fun x y => cx.toNat < s.cfg.width ∧ cy.toNat < s.cfg.height ∧ ⟨x, y⟩ ∈ fillCirclePts cx.toNat cy.toNat r.toNat) s t)

/-- R164, conflict C4: the filled circle contains the outline; for `r >= 1` it also contains the centre, which
the outline does not; for `r = 0` both are the centre alone. -/
def Obligations.FilledCircleCoversTheOutline : Prop :=
  ∀ (cx cy : Int) (r : Nat),
    (∀ p ∈ circlePts cx cy r, p ∈ fillCirclePts cx cy r) ∧
    (1 ≤ r → ⟨cx, cy⟩ ∈ fillCirclePts cx cy r ∧ ⟨cx, cy⟩ ∉ circlePts cx cy r) ∧
    (∀ p, p ∈ circlePts cx cy 0 ↔ p = ⟨cx, cy⟩) ∧ (∀ p, p ∈ fillCirclePts cx cy 0 ↔ p = ⟨cx, cy⟩)

/-- R165, R166, R170, R171, R172: a normalised angle lies in 1 to 360 and is the operand modulo 360; the segment count
lies in 0 to 36, is 0 exactly for a sweep of at most 4, and is `sweep / 10` rounded half up; the first and last
sample angles are the start and the end of the sweep, and each is its multiple of the segment rounded half up; SinQ
is the table by quadrant, of period 360, and CosQ is SinQ a quarter turn on; the table rises from 0 to 16384 with
the sines' own values at 30, 45 and 60 degrees, and its squares at `d` and `90 - d` sum to one within the table's
rounding; ROff is `r * s / 16384` to the nearest, ties away from 0; a sample lies at the sine and the cosine of its
angle from the centre, and a sample of byte operands lies in -255 to 510. The model's choice here: that the table is
a constant and not configuration (log entry 20); that it rises, and the law of its squares, are read off its values. -/
def Obligations.ArcGeometryStaysInRange : Prop :=
  (∀ a : Nat, 1 ≤ norm360 a ∧ norm360 a ≤ 360 ∧ norm360 a % 360 = a % 360) ∧
  (∀ t : Nat, 1 ≤ t → t ≤ 360 →
    segCount t ≤ 36 ∧ (segCount t = 0 ↔ t ≤ 4) ∧ 10 * segCount t ≤ t + 5 ∧ t + 5 < 10 * segCount t + 10) ∧
  (∀ s t : Nat, sampleAngle s t (segCount t) 0 = s ∧ (5 ≤ t → sampleAngle s t (segCount t) (segCount t) = s + t)) ∧
  (∀ s t n k : Nat, sampleAngle s t 0 k = s ∧
    (1 ≤ n → s ≤ sampleAngle s t n k ∧ 2 * n * (sampleAngle s t n k - s) ≤ 2 * k * t + n ∧
      2 * k * t + n < 2 * n * (sampleAngle s t n k - s) + 2 * n)) ∧
  (∀ t : Nat, sinQ (t + 360) = sinQ t ∧ cosQ t = sinQ (t + 90)) ∧
  (∀ d : Nat, d ≤ 90 → sinQ d = sinq d ∧ sinQ (180 - d) = sinq d ∧ sinQ (180 + d) = -sinq d ∧ sinQ (360 - d) = -sinq d) ∧
  (sinq 0 = 0 ∧ sinq 30 = 8192 ∧ sinq 45 = 11585 ∧ sinq 60 = 14189 ∧ sinq 90 = 16384) ∧
  (∀ d : Nat, d < 90 → sinq d < sinq (d + 1)) ∧
  (∀ d : Nat, d ≤ 90 → (sinq d ^ 2 + sinq (90 - d) ^ 2 - 16384 ^ 2).natAbs ≤ 2 * 16384) ∧
  (∀ (r : Nat) (s : Int), 2 * (r * s - 16384 * rOff r s).natAbs ≤ 16384 ∧
    (2 * (r * s - 16384 * rOff r s).natAbs = 16384 → (r * s).natAbs < (16384 * rOff r s).natAbs)) ∧
  (∀ (cx cy : Int) (r s t k : Nat),
    samplePoint cx cy r s t k =
      ⟨cx + rOff r (sinQ (sampleAngle s t (segCount t) k)), cy + rOff r (cosQ (sampleAngle s t (segCount t) k))⟩) ∧
  (∀ (cx cy r : Byte) (s t k : Nat),
    -255 ≤ (samplePoint cx.toNat cy.toNat r.toNat s t k).x ∧ (samplePoint cx.toNat cy.toNat r.toNat s t k).x ≤ 510 ∧
    -255 ≤ (samplePoint cx.toNat cy.toNat r.toNat s t k).y ∧ (samplePoint cx.toNat cy.toNat r.toNat s t k).y ≤ 510)

/-- R174: ARC paints the chord from each sample to the next, clipped and with no anchor guard; a sweep of at
most 4 degrees paints nothing. -/
def Obligations.ArcPaintsItsChords : Prop :=
  ∀ (s : State) (cx cy r : Byte) (start sweep : Half) (c : Byte), s.CanRun → (Instr.arc cx cy r start sweep c).wf = true →
    let P := samplePoint cx.toNat cy.toNat r.toNat (norm360 start.toNat) (norm360 sweep.toNat)
    ∃ t, exec (.arc cx cy r start sweep c) s = .next t ∧
      PaintedBy (colorOf c)
        (fun x y => ∃ k, 1 ≤ k ∧ k ≤ (norm360 sweep.toNat + 5) / 10 ∧ ⟨x, y⟩ ∈ linePts (P (k - 1)) (P k)) s t

/-- R175: ARCRL paints the chords of ARC and the two radius lines, from the centre outward; with no chord it
paints the one radius line. -/
def Obligations.ArcRadiusLinesPaintOutward : Prop :=
  ∀ (s : State) (cx cy r : Byte) (start sweep : Half) (c : Byte), s.CanRun → (Instr.arcrl cx cy r start sweep c).wf = true →
    let P := samplePoint cx.toNat cy.toNat r.toNat (norm360 start.toNat) (norm360 sweep.toNat)
    let n := (norm360 sweep.toNat + 5) / 10
    ∃ t, exec (.arcrl cx cy r start sweep c) s = .next t ∧
      PaintedBy (colorOf c)
        (fun x y => (∃ k, 1 ≤ k ∧ k ≤ n ∧ ⟨x, y⟩ ∈ linePts (P (k - 1)) (P k)) ∨
          ⟨x, y⟩ ∈ linePts (pointOf cx cy) (P 0) ∨ ⟨x, y⟩ ∈ linePts (pointOf cx cy) (P n)) s t

/-! ## Text and bitmaps -/

/-- R190: SETFONT loads the descriptor; R194: SETCURSOR stores any value; R239: GETDISP puts DISPON in RESULT
and sends nothing. Each changes nothing else but LAST, RESULT and BUSY. -/
def Obligations.RegisterCommandsWriteTheirRegisters : Prop :=
  (∀ (s : State) (w h flags : Byte) (data cw : Word), s.session = .ready → (Instr.setfont w h flags data cw).wf = true →
    exec (.setfont w h flags data cw) s = .next
      { s with fontValid := true, fontW := w, fontH := h, fontCwen := (flags == 1), fontData := data, fontCw := cw,
               last := .ok, result := 0x00#8, busy := false }) ∧
  (∀ (s : State) (x y : Half), s.session = .ready →
    exec (.setcursor x y) s = .next { s with curx := x, cury := y, last := .ok, result := 0x00#8, busy := false }) ∧
  (∀ s : State, s.session = .ready →
    exec .getdisp s = .next { s with last := .ok, result := (if s.dispon then 1 else 0), busy := false })

/-- R200, R201, R192, R62 (c): WRCHAR with a font, a printable character that fits and readable glyph bytes completes OK
with the character in RESULT: the cell shows the glyph's set bits in the colour and its clear bits in the
other, every other pixel is as before, CURX advances by FONT_W or by the character's own width without
wrapping (R24), and nothing else changes. -/
def Obligations.WriteCharDrawsTheGlyph : Prop :=
  ∀ (s : State) (ch c : Byte) (lo hi : Nat → Byte) (adv : Byte), s.CanRun → (Instr.wrchar ch c).wf = true →
    s.fontValid = true → s.fontW.toNat ≤ 16 → 1 ≤ s.fontW.toNat → 32 ≤ ch.toNat → ch.toNat ≤ 126 →
    s.curx.toNat + s.fontW.toNat ≤ s.cfg.width → s.cury.toNat + s.fontH.toNat ≤ s.cfg.height →
    (∀ i < s.fontH.toNat,
      srcRead s.src (s.fontData.toNat + 2 * ((ch.toNat - 32) * s.fontH.toNat + i)) = .ok (lo i) ∧
      srcRead s.src (s.fontData.toNat + 2 * ((ch.toNat - 32) * s.fontH.toNat + i) + 1) = .ok (hi i)) →
    (if s.fontCwen then srcRead s.src (s.fontCw.toNat + (ch.toNat - 32)) = .ok adv else adv = s.fontW) →
    ∃ t, exec (.wrchar ch c) s = .next t ∧
      t = { s with fb := t.fb, curx := t.curx, last := .ok, result := ch, busy := false } ∧
      t.fb.length = s.fb.length ∧ t.curx.toNat = s.curx.toNat + adv.toNat ∧ t.curx.toNat ≤ 510 ∧
      (∀ i j, i < s.fontH.toNat → j < s.fontW.toNat →
        pixel s.cfg t.fb (s.curx.toNat + j) (s.cury.toNat + i) =
          if ((lo i).toNat + 2 ^ 8 * (hi i).toNat).testBit (15 - j) then (colorOf c).isOn else !(colorOf c).isOn) ∧
      (∀ x y, x < s.cfg.width → y < s.cfg.height →
        (x < s.curx.toNat ∨ s.curx.toNat + s.fontW.toNat ≤ x ∨ y < s.cury.toNat ∨ s.cury.toNat + s.fontH.toNat ≤ y) →
        pixel s.cfg t.fb x y = pixel s.cfg s.fb x y)

/-- R200, R201, R254: the tests of a character write in their order: no font is ILLEGAL, a character outside 32
to 126 is UNSUPPORTED_GLYPH, a cell that does not fit is RANGE_ERROR; WRCHAR then changes only LAST, RESULT
(the sentinel `0x00`) and BUSY. -/
def Obligations.RefusedCharChangesNothing : Prop :=
  ∀ (s : State) (ch c : Byte) (st : Status), s.session = .ready → (Instr.wrchar ch c).wf = true →
    (s.fontValid = false ∧ st = .illegal ∨
      s.fontValid = true ∧ (ch.toNat < 32 ∨ 126 < ch.toNat) ∧ st = .unsupportedGlyph ∨
      s.fontValid = true ∧ 32 ≤ ch.toNat ∧ ch.toNat ≤ 126 ∧
        (s.cfg.width < s.curx.toNat + s.fontW.toNat ∨ s.cfg.height < s.cury.toNat + s.fontH.toNat) ∧ st = .rangeError) →
    exec (.wrchar ch c) s = .next { s with last := st, result := 0x00#8, busy := false }

/-- R200, R257, R258: WRCHAR of a character that fits ends in a SrcFault at the first unreadable glyph byte, or, with
every glyph byte readable, at an unreadable width-table byte; R258: LAST and RESULT are kept. That the cursor is
kept too is the model's choice (log entry 8; R258: "a model may keep them"). -/
def Obligations.UnreadableGlyphIsSrcFault : Prop :=
  ∀ (s : State) (ch c : Byte), s.CanRun → (Instr.wrchar ch c).wf = true →
    s.fontValid = true → 32 ≤ ch.toNat → ch.toNat ≤ 126 →
    s.curx.toNat + s.fontW.toNat ≤ s.cfg.width → s.cury.toNat + s.fontH.toNat ≤ s.cfg.height →
    let base := s.fontData.toNat + 2 * ((ch.toNat - 32) * s.fontH.toNat)
    (∀ k, FirstUnreadable s.src base (2 * s.fontH.toNat) k →
      ∃ t, exec (.wrchar ch c) s = .next t ∧ SrcFaulted (base + k) s t) ∧
    ((∀ k < 2 * s.fontH.toNat, Readable s.src (base + k)) → s.fontCwen = true →
      ¬ Readable s.src (s.fontCw.toNat + (ch.toNat - 32)) →
      ∃ t, exec (.wrchar ch c) s = .next t ∧ SrcFaulted (s.fontCw.toNat + (ch.toNat - 32)) s t)

/-- R204: WRSTR as the sequence of its character writes. With no font it completes ILLEGAL. A terminator
completes OK with RESULT `0x00`; a character that PutGlyph refuses ends it with that status and the character
in RESULT; after a character that is written it goes on as WRSTR of the next address would; an unreadable
string byte is a SrcFault there; and so is the address `2^32` after a string that reaches the top. What FB and the
cursor hold after a SrcFault (the clauses for a glyph that is not readable and for the address `2^32`) is the
model's choice (log entry 8; R258: "a model may keep them"). -/
def Obligations.WriteStringWritesItsCharacters : Prop :=
  ∀ (s : State) (addr : Word) (c : Byte), s.session = .ready → (Instr.wrstr addr c).wf = true →
    (s.fontValid = false →
      exec (.wrstr addr c) s = .next { s with last := .illegal, result := 0x00#8, busy := false }) ∧
    (s.fontValid = true →
      (∀ ch, srcRead s.src addr.toNat = .ok ch →
        (ch = 0x00#8 → exec (.wrstr addr c) s = .next { s with last := .ok, result := 0x00#8, busy := false }) ∧
        (ch ≠ 0x00#8 → ∀ t, exec (.wrchar ch c) s = .next t →
          (t.busy = false → t.last ≠ .ok → exec (.wrstr addr c) s = .next { t with result := ch }) ∧
          (t.busy = true → exec (.wrstr addr c) s = .next t) ∧
          (t.busy = false → t.last = .ok → addr.toNat + 1 < 2 ^ 32 →
            exec (.wrstr addr c) s = exec (.wrstr (addr + 1) c) { t with last := s.last, result := s.result }) ∧
          (t.busy = false → t.last = .ok → addr.toNat + 1 = 2 ^ 32 →
            ∃ u, exec (.wrstr addr c) s = .next u ∧
              u = { t with last := s.last, result := s.result, faultSrc := true, faultInfo := some (.src (2 ^ 32)), busy := true }))) ∧
      (¬ Readable s.src addr.toNat → ∃ t, exec (.wrstr addr c) s = .next t ∧ SrcFaulted addr.toNat s t))

/-- R204, R200: a whole NUL-terminated string of `n` printable characters, whose bytes are readable and whose
characters fit one after another (character `k` advances by `adv k`: FONT_W, or its own width where a width
table is present), completes OK with RESULT `0x00` and leaves the cursor after it; CURY does not change. -/
def Obligations.WriteStringAdvancesOverTheText : Prop :=
  ∀ (s : State) (addr : Word) (c : Byte) (n : Nat) (str adv : Nat → Byte), s.CanRun → (Instr.wrstr addr c).wf = true →
    s.fontValid = true → 1 ≤ s.fontW.toNat →
    (∀ k < n, srcRead s.src (addr.toNat + k) = .ok (str k) ∧ 32 ≤ (str k).toNat ∧ (str k).toNat ≤ 126 ∧
      (∀ j < 2 * s.fontH.toNat, Readable s.src (s.fontData.toNat + 2 * (((str k).toNat - 32) * s.fontH.toNat) + j)) ∧
      (if s.fontCwen then srcRead s.src (s.fontCw.toNat + ((str k).toNat - 32)) = .ok (adv k) else adv k = s.fontW) ∧
      s.curx.toNat + ((List.range k).map fun j => (adv j).toNat).sum + s.fontW.toNat ≤ s.cfg.width) →
    srcRead s.src (addr.toNat + n) = .ok 0x00#8 → s.cury.toNat + s.fontH.toNat ≤ s.cfg.height →
    ∃ t, exec (.wrstr addr c) s = .next t ∧
      t = { s with fb := t.fb, curx := t.curx, last := .ok, result := 0x00#8, busy := false } ∧
      t.fb.length = s.fb.length ∧ t.curx.toNat = s.curx.toNat + ((List.range n).map fun j => (adv j).toNat).sum

/-- R204: "RESULT = 0x00 exactly when the whole string was written": for every WRSTR that completes with a font
loaded, RESULT is `0x00` exactly when LAST is OK. -/
def Obligations.StringResultIsZeroExactlyOnSuccess : Prop :=
  ∀ (s t : State) (addr : Word) (c : Byte), s.session = .ready → (Instr.wrstr addr c).wf = true → s.fontValid = true →
    exec (.wrstr addr c) s = .next t → t.busy = false → (t.result = 0x00#8 ↔ t.last = .ok)

/-- R210: BITMAP. An anchor out of bounds reads and paints nothing; where every byte of the rows is admitted the
set bits are painted, clipped, and clear bits leave their pixels; where one is not, the command ends in a
SrcFault at the first such address. -/
def Obligations.BitmapPaintsItsSetBits : Prop :=
  ∀ (s : State) (x y : Byte) (addr : Word) (w h c : Byte), s.CanRun → (Instr.bitmap x y addr w h c).wf = true →
    (s.cfg.width ≤ x.toNat ∨ s.cfg.height ≤ y.toNat →
      exec (.bitmap x y addr w h c) s = .next { s with last := .ok, result := 0x00#8, busy := false }) ∧
    (x.toNat < s.cfg.width → y.toNat < s.cfg.height →
      (∀ bits : Nat → Byte, (∀ k < h.toNat * ((w.toNat + 7) / 8), srcRead s.src (addr.toNat + k) = .ok (bits k)) →
        ∃ t, exec (.bitmap x y addr w h c) s = .next t ∧
          PaintedBy (colorOf c)
            (fun px py => ∃ i j : Nat, i < w.toNat ∧ j < h.toNat ∧ px = x.toNat + i ∧ py = y.toNat + j ∧
              (bits (j * ((w.toNat + 7) / 8) + i / 8)).getLsbD (7 - i % 8) = true) s t) ∧
      (∀ k, FirstUnreadable s.src addr.toNat (h.toNat * ((w.toNat + 7) / 8)) k →
        ∃ t, exec (.bitmap x y addr w h c) s = .next t ∧ SrcFaulted (addr.toNat + k) s t))

/-! ## Session and transport -/

/-- R230, R231, R232: a FLUSH whose every transaction is answered OK sends `4 * PAGES` transactions, whose data
payloads together are FB, and changes nothing else; one whose `n + 1`-st transaction is the first answered ERR
sends exactly the first `n + 1` and completes TRANSPORT_ERROR; R60: one that gets no further answer waits with
BUSY 1 (what it has left to do is held as log entry 7 says). -/
def Obligations.FlushFollowsItsAnswers : Prop :=
  (∀ (s : State) (rest : List Answer), s.CanRun → s.answers = List.replicate (4 * s.cfg.pages) .ok ++ rest →
    exec .flush s = .next
      { s with trace := s.trace ++ flushTrace s.cfg s.fb, answers := rest, last := .ok, result := 0x00#8, busy := false }) ∧
  (∀ (cfg : Config) (fb : List Byte), fb.length = cfg.bufSize →
    (flushTrace cfg fb).length = 4 * cfg.pages ∧ ((flushTrace cfg fb).map Tx.payload).flatten = fb) ∧
  (∀ (s : State) (n : Nat) (rest : List Answer), s.CanRun → n < 4 * s.cfg.pages →
    s.answers = List.replicate n .ok ++ .err :: rest →
    exec .flush s = .next
      { s with trace := s.trace ++ (flushTrace s.cfg s.fb).take (n + 1), answers := rest,
               last := .transportError, result := 0x00#8, busy := false }) ∧
  (∀ (s : State) (n : Nat), s.CanRun → n < 4 * s.cfg.pages → s.answers = List.replicate n .ok →
    exec .flush s = .next
      { s with trace := s.trace ++ (flushTrace s.cfg s.fb).take (n + 1), answers := [], busy := true,
               wait := some ((flushOps s.cfg).drop (n + 1)) })

/-- R222: an INIT whose every transaction is answered OK, in any session state, sends INIT_SEQ and one flush of
an all-OFF buffer and leaves the session Ready, FB all OFF, the cursor at (0, 0), DISPON 1, CONTRAST the last
byte of step 7; the font registers and everything else are not touched. R36, R60: one that gets no answer to its
`n + 1`-st transaction has sent exactly the first `n + 1` and waits in Initializing with BUSY 1 and the rest of
INIT to do (held as log entry 7 says); LAST, RESULT and the cursor are as before, and FB, DISPON and CONTRAST are
those of the steps done. -/
def Obligations.InitMakesTheSessionReady : Prop :=
  (∀ (s : State) (rest : List Answer), s.cfg.wf = true →
    s.answers = List.replicate (s.cfg.initSeq.flatten.length + 4 * s.cfg.pages) .ok ++ rest →
    exec .init s = .next
      { s with session := .ready, fb := blankFb s.cfg, curx := 0, cury := 0, dispon := true,
               contrast := (s.cfg.initSeq.getD 6 []).getLastD 0x00#8,
               trace := s.trace ++ initTrace s.cfg, answers := rest, last := .ok, result := 0x00#8, busy := false }) ∧
  (∀ (s : State) (n : Nat), s.cfg.wf = true → n < s.cfg.initSeq.flatten.length + 4 * s.cfg.pages →
    s.answers = List.replicate n .ok →
    ∃ t, exec .init s = .next t ∧
      t = { s with session := .initializing, fb := t.fb, dispon := t.dispon, contrast := t.contrast,
                   trace := s.trace ++ (initTrace s.cfg).take (n + 1), answers := [], busy := true,
                   wait := some (afterSends (n + 1) (initOps s.cfg)) } ∧
      InitReached n s t)

/-- R223: an INIT whose `n + 1`-st transaction is the first answered ERR ends at once with TRANSPORT_ERROR and
STATE Uninitialized; it sent exactly the first `n + 1` transactions; the cursor is kept; FB is unchanged when
the failure is in the sequence and all OFF when it is in the flush; the register effects of the steps completed
before it stay. -/
def Obligations.InitFailsBackToUninitialized : Prop :=
  ∀ (s : State) (n : Nat) (rest : List Answer), s.cfg.wf = true → n < s.cfg.initSeq.flatten.length + 4 * s.cfg.pages →
    s.answers = List.replicate n .ok ++ .err :: rest →
    ∃ t, exec .init s = .next t ∧
      t = { s with session := .uninitialized, fb := t.fb, dispon := t.dispon, contrast := t.contrast,
                   trace := s.trace ++ (initTrace s.cfg).take (n + 1), answers := rest,
                   last := .transportError, result := 0x00#8, busy := false } ∧
      InitReached n s t

/-- R235: SETCONTRAST sends its two bytes and sets CONTRAST; an ERR on either ends it with CONTRAST kept, and
after an ERR on the first the second is not sent. R237: SETDISP sends the on or the off byte and sets DISPON; an
ERR leaves DISPON unchanged. R36, R60: with no answer either waits with BUSY 1, LAST, RESULT and its register as
before, and the rest of its work to do (held as log entry 7 says). -/
def Obligations.ConfigurationCommandsFollowTheirAnswers : Prop :=
  (∀ (s : State) (v : Byte) (rest : List Answer), s.session = .ready →
    (s.answers = .ok :: .ok :: rest →
      exec (.setcontrast v) s = .next
        { s with trace := s.trace ++ [.cmd s.cfg.contrastCmd, .cmd v], answers := rest, contrast := v,
                 last := .ok, result := 0x00#8, busy := false }) ∧
    (s.answers = .err :: rest →
      exec (.setcontrast v) s = .next
        { s with trace := s.trace ++ [.cmd s.cfg.contrastCmd], answers := rest,
                 last := .transportError, result := 0x00#8, busy := false }) ∧
    (s.answers = .ok :: .err :: rest →
      exec (.setcontrast v) s = .next
        { s with trace := s.trace ++ [.cmd s.cfg.contrastCmd, .cmd v], answers := rest,
                 last := .transportError, result := 0x00#8, busy := false }) ∧
    (s.answers = [] →
      exec (.setcontrast v) s = .next
        { s with trace := s.trace ++ [.cmd s.cfg.contrastCmd], busy := true, wait := some [.cmd v, .setContrast v] }) ∧
    (s.answers = [.ok] →
      exec (.setcontrast v) s = .next
        { s with trace := s.trace ++ [.cmd s.cfg.contrastCmd, .cmd v], answers := [], busy := true,
                 wait := some [.setContrast v] })) ∧
  (∀ (s : State) (sw : Byte) (rest : List Answer), s.session = .ready → (Instr.setdisp sw).wf = true →
    (s.answers = .ok :: rest →
      exec (.setdisp sw) s = .next
        { s with trace := s.trace ++ [.cmd (if sw = 1 then s.cfg.dispOnCmd else s.cfg.dispOffCmd)], answers := rest,
                 dispon := (sw == 1), last := .ok, result := 0x00#8, busy := false }) ∧
    (s.answers = .err :: rest →
      exec (.setdisp sw) s = .next
        { s with trace := s.trace ++ [.cmd (if sw = 1 then s.cfg.dispOnCmd else s.cfg.dispOffCmd)], answers := rest,
                 last := .transportError, result := 0x00#8, busy := false }) ∧
    (s.answers = [] →
      exec (.setdisp sw) s = .next
        { s with trace := s.trace ++ [.cmd (if sw = 1 then s.cfg.dispOnCmd else s.cfg.dispOffCmd)], busy := true,
                 wait := some [.setDispon (sw == 1)] }))

/-- R36, R60, R286 (c): while a transaction is unanswered the block stays as it is. Of the environment's moves other
than an answer and reset, a change of the host's own source memory changes that alone, a write to any offset but
CMD changes nothing, and a CMD write, which breaks the host's duty, stops the model by name; with no move pending
the block stalls: nothing changes. The model's choices here: that stop (log entry 10); a step with no move (log
entry 11); a write to an offset that R66 does not list (log entry 12); that the host may change source memory then
(log entry 13). -/
def Obligations.UnansweredTransactionStallsTheBlock : Prop :=
  ∀ (s : State) (ms : List Input), s.Inv → s.wait.isSome = true →
    (∀ v, s.inputs = .write 0x00 v :: ms → step s = .fault .cmdWriteWhileBusy) ∧
    (∀ offset v, s.inputs = .write offset v :: ms → offset ≠ 0x00 → step s = .next { s with inputs := ms }) ∧
    (∀ a b, s.inputs = .source a b :: ms → step s = .next { s with inputs := ms, src := s.src.put a.toNat b }) ∧
    (s.inputs = [] → step s = .next s)

/-- R60, R63, R284: when the answers come makes no difference to what a transport command does: a command that ran
out of answers goes on, at the step that delivers its next answer, to what it would have done with that answer
ready. Such a step of any waiting block continues the command after an OK, and after an ERR completes it with
TRANSPORT_ERROR, STATE falling back where it is Initializing. The model's choices here: ready and late answers (log
entry 6), what a waiting command has left to do (log entry 7), and that `Initializing` tells INIT (log entry 17). -/
def Obligations.LateAnswersAgreeWithReadyAnswers : Prop :=
  (∀ (i : Instr) (s t : State) (as : List Answer) (a : Answer) (rest : List TxOp), s.wait = none →
    exec i { s with answers := as } = .next t → t.wait = some rest →
    exec i { s with answers := as ++ [a] } = .next (resumeTx a rest t) ∧
    (s.cfg.wf = true → ∀ ms,
      step { t with inputs := .answer a :: ms } = exec i { s with answers := as ++ [a], inputs := ms })) ∧
  (∀ (s : State) (rest : List TxOp) (ms : List Input), s.cfg.wf = true → s.wait = some rest →
    (s.inputs = .answer .ok :: ms → step s = .next (runTx rest { s with inputs := ms, wait := none })) ∧
    (s.inputs = .answer .err :: ms →
      ∃ t, step s = .next t ∧
        t = { s with inputs := ms, wait := none, session := t.session, last := .transportError, result := 0x00#8, busy := false } ∧
        (s.session = .initializing → t.session = .uninitialized) ∧ (s.session ≠ .initializing → t.session = s.session)))
end

