-- ==== Sys2Proof/Laws/Decode.lean ====
section
/-! SUPPORT. Small facts of the packet fields (30_encoding.md R74): splitting a field into its bytes and
joining the bytes are inverse, and every opcode of a command is assigned. -/

namespace Sys2Proof

@[simp] theorem le16_bytes (v : Half) : le16 (v.extractLsb' 0 8) (v.extractLsb' 8 8) = v := by
  apply BitVec.eq_of_getLsbD_eq
  intro i hi
  simp only [le16, BitVec.getLsbD_append, BitVec.getLsbD_extractLsb']
  by_cases h : i < 8 <;> simp [h]
  grind

@[simp] theorem le32_bytes (v : Word) :
    le32 (v.extractLsb' 0 8) (v.extractLsb' 8 8) (v.extractLsb' 16 8) (v.extractLsb' 24 8) = v := by
  apply BitVec.eq_of_getLsbD_eq
  intro i hi
  simp only [le32, BitVec.getLsbD_append, BitVec.getLsbD_extractLsb']
  by_cases h1 : i < 8
  · simp [h1]
  · by_cases h2 : i < 16
    · simp [h1, show i - 8 < 8 by omega, show 8 + (i - 8) = i by omega]
    · by_cases h3 : i < 24
      · simp [h1, show ¬ i - 8 < 8 by omega, show i - 8 - 8 < 8 by omega, show 16 + (i - 8 - 8) = i by omega]
      · simp [h1, show ¬ i - 8 < 8 by omega, show ¬ i - 8 - 8 < 8 by omega, show i - 8 - 8 - 8 < 8 by omega,
          show 24 + (i - 8 - 8 - 8) = i by omega]

/-- Bit `i` of a joined `u16` field. -/
theorem le16_getLsbD (b0 b1 : Byte) (i : Nat) :
    (le16 b0 b1).getLsbD i = if i < 8 then b0.getLsbD i else b1.getLsbD (i - 8) := by
  unfold le16
  exact (BitVec.getLsbD_append (x := b1) (y := b0) (i := i)).trans (by by_cases h : i < 8 <;> simp [h])

/-- Bit `i` of a joined `u32` field. -/
theorem le32_getLsbD (b0 b1 b2 b3 : Byte) (i : Nat) :
    (le32 b0 b1 b2 b3).getLsbD i =
      if i < 8 then b0.getLsbD i else if i < 16 then b1.getLsbD (i - 8) else if i < 24 then b2.getLsbD (i - 16)
      else b3.getLsbD (i - 24) := by
  unfold le32
  refine (BitVec.getLsbD_append (x := b3 ++ b2 ++ b1) (y := b0) (i := i)).trans ?_
  by_cases h : i < 8
  · simp [h]
  · simp only [h, if_false]
    refine (BitVec.getLsbD_append (x := b3 ++ b2) (y := b1) (i := i - 8)).trans ?_
    by_cases h2 : i < 16
    · simp [h2, show i - 8 < 8 by omega]
    · simp only [h2, show ¬ i - 8 < 8 by omega, if_false]
      refine (BitVec.getLsbD_append (x := b3) (y := b2) (i := i - 8 - 8)).trans ?_
      by_cases h3 : i < 24
      · simp [h3, show i - 8 - 8 = i - 16 by omega, show i - 16 < 8 by omega]
      · simp [h3, show ¬ i - 8 - 8 < 8 by omega, show i - 8 - 8 - 8 = i - 24 by omega]

@[simp] theorem bytes16_le16 (b0 b1 : Byte) : bytes16 (le16 b0 b1) = [b0, b1] := by
  simp only [bytes16, List.cons.injEq, and_true]
  constructor <;> apply BitVec.eq_of_getLsbD_eq <;> intro i hi <;>
    simp [le16_getLsbD, hi]

@[simp] theorem bytes32_le32 (b0 b1 b2 b3 : Byte) : bytes32 (le32 b0 b1 b2 b3) = [b0, b1, b2, b3] := by
  simp only [bytes32, List.cons.injEq, and_true]
  refine ⟨?_, ?_, ?_, ?_⟩ <;> apply BitVec.eq_of_getLsbD_eq <;> intro i hi <;>
    simp [le32_getLsbD, hi]
  · simp [show 8 + i < 16 by omega]
  · simp [show ¬ 16 + i < 8 by omega, show 16 + i < 24 by omega]
  · simp [show ¬ 24 + i < 8 by omega, show ¬ 24 + i < 16 by omega]

end Sys2Proof
end

