-- ==== Sys2Proof/Laws/Framebuffer.lean ====
section
/-! SUPPORT. The framebuffer: which bit each pixel is, and what a plot, a list of plots, a flip and whole-byte
writes do to every pixel and to the length (20_memory.md R51, 40_framebuffer.md R100, R101). -/

namespace Sys2Proof.Machine

/-- The size facts of a legal configuration (00_scope.md R6). -/
theorem Config.wf_sizes {cfg : Config} (h : cfg.wf = true) :
    1 ≤ cfg.width ∧ cfg.width ≤ 256 ∧ 8 ≤ cfg.height ∧ cfg.height ≤ 256 ∧ cfg.height = 8 * cfg.pages := by
  simp only [Config.wf, Config.pages, Bool.and_eq_true, decide_eq_true_eq] at h ⊢
  omega

/-- An in-bounds pixel lies in the buffer (R51). -/
theorem fbIndex_lt {cfg : Config} (h : cfg.wf = true) {x y : Nat} (hx : x < cfg.width) (hy : y < cfg.height) :
    fbIndex cfg x y < cfg.bufSize := by
  obtain ⟨-, -, -, -, hp⟩ := Config.wf_sizes h
  have h1 : y / 8 + 1 ≤ cfg.pages := by omega
  have h2 : (y / 8 + 1) * cfg.width ≤ cfg.pages * cfg.width := Nat.mul_le_mul_right _ h1
  unfold fbIndex Config.bufSize
  rw [Nat.add_mul] at h2
  omega

/-- Two pixels of one byte have one column and one page. -/
theorem fbIndex_inj {cfg : Config} {x y x' y' : Nat} (hx : x < cfg.width) (hx' : x' < cfg.width)
    (h : fbIndex cfg x y = fbIndex cfg x' y') : x = x' ∧ y / 8 = y' / 8 := by
  unfold fbIndex at h
  have hw : 0 < cfg.width := by omega
  have hm := congrArg (· % cfg.width) h
  have hd := congrArg (· / cfg.width) h
  simp only [Nat.add_mul_mod_self_right, Nat.add_mul_div_right _ _ hw, Nat.mod_eq_of_lt hx, Nat.mod_eq_of_lt hx',
    Nat.div_eq_of_lt hx, Nat.div_eq_of_lt hx', Nat.zero_add] at hm hd
  exact ⟨hm, hd⟩

/-- What a change of one byte does to a pixel. -/
theorem pixel_modify {cfg : Config} {fb : List Byte} {i : Nat} (f : Byte → Byte) (x y : Nat) (hi : i < fb.length) :
    pixel cfg (fb.modify i f) x y =
      if fbIndex cfg x y = i then (f (fb.getD i 0x00#8)).getLsbD (y % 8) else pixel cfg fb x y := by
  unfold pixel
  simp only [List.getD_eq_getElem?_getD, List.getElem?_modify]
  split
  · rename_i h
    subst h
    simp [List.getElem?_eq_getElem hi]
  · rename_i h
    simp only [Ne.symm h, if_false]
    cases fb[fbIndex cfg x y]? <;> simp

@[simp] theorem rowBit_getElem (y k : Nat) (hk : k < 8) : (rowBit y)[k] = decide (k = y % 8) := by
  rw [← BitVec.getLsbD_eq_getElem]
  have hy : y % 8 < 8 := Nat.mod_lt _ (by decide)
  unfold rowBit
  generalize y % 8 = r at *
  interval_cases r <;> interval_cases k <;> decide

theorem colorBit_getLsbD (c : Color) (y k : Nat) (b : Byte) (hk : k < 8) :
    (colorBit c y b).getLsbD k = if k = y % 8 then c.isOn else b.getLsbD k := by
  cases c <;> by_cases h : k = y % 8 <;> simp [colorBit, Color.isOn, hk, h, Nat.mod_lt]

@[simp] theorem plot_length (cfg : Config) (c : Color) (p : Point) (fb : List Byte) :
    (plot cfg c p fb).length = fb.length := by
  unfold plot
  split <;> simp

@[simp] theorem paint_length (cfg : Config) (c : Color) (pts : List Point) (fb : List Byte) :
    (paint cfg c pts fb).length = fb.length := by
  unfold paint
  induction pts generalizing fb with
  | nil => rfl
  | cons p pts ih => simp [ih]

@[simp] theorem flip_length (cfg : Config) (x y : Nat) (fb : List Byte) : (flip cfg x y fb).length = fb.length := by
  simp [flip]

theorem inBounds_iff (cfg : Config) (p : Point) :
    inBounds cfg p = true ↔ 0 ≤ p.x ∧ p.x < cfg.width ∧ 0 ≤ p.y ∧ p.y < cfg.height := by
  simp [inBounds, and_assoc]

/-- A plot changes the one pixel of its point, and no pixel when the point is out of bounds (R100). -/
theorem pixel_plot {cfg : Config} {fb : List Byte} (hc : cfg.wf = true) (hl : fb.length = cfg.bufSize)
    (c : Color) (p : Point) {x y : Nat} (hx : x < cfg.width) (hy : y < cfg.height) :
    pixel cfg (plot cfg c p fb) x y = if p = ⟨x, y⟩ then c.isOn else pixel cfg fb x y := by
  unfold plot
  split
  · rename_i hb
    obtain ⟨h1, h2, h3, h4⟩ := (inBounds_iff cfg p).1 hb
    obtain ⟨px, py⟩ := p
    obtain ⟨a, rfl⟩ := Int.eq_ofNat_of_zero_le h1
    obtain ⟨b, rfl⟩ := Int.eq_ofNat_of_zero_le h3
    simp only [Int.toNat_natCast, Point.mk.injEq, Nat.cast_inj] at *
    have ha : a < cfg.width := by omega
    have hb' : b < cfg.height := by omega
    have hlt : fbIndex cfg a b < fb.length := hl ▸ fbIndex_lt hc ha hb'
    have hm : y % 8 < 8 := Nat.mod_lt _ (by decide)
    rw [pixel_modify _ _ _ hlt, colorBit_getLsbD _ _ _ _ hm]
    by_cases h : fbIndex cfg x y = fbIndex cfg a b
    · obtain ⟨rfl, hd⟩ := fbIndex_inj hx ha h
      by_cases hy8 : y % 8 = b % 8
      · have : b = y := by omega
        subst this; simp
      · have : b ≠ y := fun e => hy8 (by rw [e])
        simp [h, hy8, this, pixel]
    · have : ¬ (a = x ∧ b = y) := fun e => h (by rw [e.1, e.2])
      simp [h, this]
  · rename_i hb
    have : p ≠ ⟨x, y⟩ := fun e => hb ((inBounds_iff cfg p).2 (by subst e; simp; omega))
    simp [this]

/-- Painting a list of points sets exactly their in-bounds pixels (00_scope.md R11). -/
theorem pixel_paint {cfg : Config} {fb : List Byte} (hc : cfg.wf = true) (hl : fb.length = cfg.bufSize)
    (c : Color) (pts : List Point) {x y : Nat} (hx : x < cfg.width) (hy : y < cfg.height) :
    pixel cfg (paint cfg c pts fb) x y = if (⟨x, y⟩ : Point) ∈ pts then c.isOn else pixel cfg fb x y := by
  induction pts generalizing fb with
  | nil => simp [paint]
  | cons p pts ih =>
    have : paint cfg c (p :: pts) fb = paint cfg c pts (plot cfg c p fb) := rfl
    rw [this, ih (by simpa using hl), pixel_plot hc hl c p hx hy]
    simp only [List.mem_cons, eq_comm (a := (⟨x, y⟩ : Point)) (b := p)]
    by_cases h1 : (⟨x, y⟩ : Point) ∈ pts <;> by_cases h2 : p = ⟨x, y⟩ <;> simp [h1, h2]

/-- A flip inverts its one pixel (42_fills.md R142). -/
theorem pixel_flip {cfg : Config} {fb : List Byte} (hc : cfg.wf = true) (hl : fb.length = cfg.bufSize)
    {a b x y : Nat} (ha : a < cfg.width) (hb : b < cfg.height) (hx : x < cfg.width) :
    pixel cfg (flip cfg a b fb) x y = if x = a ∧ y = b then !pixel cfg fb x y else pixel cfg fb x y := by
  unfold flip
  have hlt : fbIndex cfg a b < fb.length := hl ▸ fbIndex_lt hc ha hb
  have hm : y % 8 < 8 := Nat.mod_lt _ (by decide)
  rw [pixel_modify _ _ _ hlt]
  by_cases h : fbIndex cfg x y = fbIndex cfg a b
  · obtain ⟨rfl, hd⟩ := fbIndex_inj hx ha h
    by_cases hy8 : y % 8 = b % 8
    · have : y = b := by omega
      subst this; simp [pixel, hm]
    · have : y ≠ b := fun e => hy8 (by rw [e])
      simp [h, hm, hy8, this, pixel]
  · have : ¬ (x = a ∧ y = b) := fun e => h (by rw [e.1, e.2])
    simp [h, this]

/-- Two buffers of the block's size with the same pixels are the same bytes: "Every bit of every byte is a
pixel" (20_memory.md R52). -/
theorem fb_eq_of_pixels {cfg : Config} {fb fb' : List Byte} (hc : cfg.wf = true) (hl : fb.length = cfg.bufSize)
    (hl' : fb'.length = cfg.bufSize)
    (h : ∀ x y : Nat, x < cfg.width → y < cfg.height → pixel cfg fb x y = pixel cfg fb' x y) : fb = fb' := by
  obtain ⟨hw, -, -, -, hp⟩ := Config.wf_sizes hc
  refine List.ext_getElem (hl.trans hl'.symm) fun i h1 h2 => BitVec.eq_of_getLsbD_eq fun k hk => ?_
  have hi : i < cfg.pages * cfg.width := by rw [hl] at h1; exact h1
  have hx : i % cfg.width < cfg.width := Nat.mod_lt _ hw
  have hd : i / cfg.width < cfg.pages := Nat.div_lt_of_lt_mul (by rwa [Nat.mul_comm])
  have hpix := h (i % cfg.width) (8 * (i / cfg.width) + k) hx (by omega)
  have e1 : (8 * (i / cfg.width) + k) / 8 = i / cfg.width := by omega
  have e2 : (8 * (i / cfg.width) + k) % 8 = k := by omega
  have e3 : i % cfg.width + i / cfg.width * cfg.width = i := Nat.mod_add_div' i cfg.width
  simpa [pixel, fbIndex, e1, e2, e3, List.getD_eq_getElem?_getD, List.getElem?_eq_getElem h1,
    List.getElem?_eq_getElem h2] using hpix

/-- The points of `upTo a b` are the integers from `a` to `b` (00_scope.md R9). -/
@[simp] theorem mem_upTo {a b v : Int} : v ∈ upTo a b ↔ a ≤ v ∧ v ≤ b := by
  simp only [upTo, List.mem_map, List.mem_range]
  constructor
  · rintro ⟨k, hk, rfl⟩
    omega
  · intro h
    exact ⟨(v - a).toNat, by omega, by omega⟩

end Sys2Proof.Machine
end

