-- ==== Sys2Proof/Laws/Memory.lean ====
section
/-! SUPPORT. Source memory: a read after a write, and the canonical form under every operation; and what a
read of the source port is (20_memory.md R55, R56). -/

namespace Sys2Proof.Machine

@[simp] theorem Memory.lookup_nil (a : Nat) : Memory.lookup [] a = none := rfl

/-- An address below every listed one is not readable. -/
theorem Memory.lookup_eq_none_of_lt {m : Memory} {a : Nat} (h : ∀ p ∈ m, a < p.1) : Memory.lookup m a = none := by
  induction m with
  | nil => rfl
  | cons p m ih =>
    have hp : a < p.1 := h p (by simp)
    simp [Memory.lookup, Nat.ne_of_gt hp, ih fun q hq => h q (by simp [hq])]

@[simp] theorem Memory.lookup_insert_same (m : Memory) (a : Nat) (b : Byte) :
    Memory.lookup (Memory.insert m a b) a = some b := by
  induction m with
  | nil => simp [Memory.insert, Memory.lookup]
  | cons p m ih =>
    obtain ⟨k, v⟩ := p
    unfold Memory.insert
    split
    · simp [Memory.lookup]
    · split
      · simp [Memory.lookup]
      · rename_i h1 h2
        simp [Memory.lookup, Ne.symm h2, ih]

theorem Memory.lookup_insert_other (m : Memory) {a a' : Nat} (b : Byte) (h : a' ≠ a) :
    Memory.lookup (Memory.insert m a b) a' = Memory.lookup m a' := by
  induction m with
  | nil => simp [Memory.insert, Memory.lookup, Ne.symm h]
  | cons p m ih =>
    obtain ⟨k, v⟩ := p
    unfold Memory.insert
    split
    · simp [Memory.lookup, Ne.symm h]
    · split
      · rename_i h1 h2
        simp [Memory.lookup, ← h2, Ne.symm h]
      · simp [Memory.lookup, ih]

theorem Memory.lookup_erase (m : Memory) (a a' : Nat) :
    Memory.lookup (Memory.erase m a) a' = if a' = a then none else Memory.lookup m a' := by
  induction m with
  | nil => simp [Memory.erase, Memory.lookup]
  | cons p m ih =>
    obtain ⟨k, v⟩ := p
    unfold Memory.erase at ih ⊢
    by_cases hk : k = a <;> by_cases ha : a' = a <;> by_cases hka : k = a' <;>
      simp_all [Memory.lookup]

/-- Every address of `insert m a b` is `a` or an address of `m`. -/
theorem Memory.mem_insert {m : Memory} {a : Nat} {b : Byte} {p : Host.Cell} (h : p ∈ Memory.insert m a b) :
    p = (a, b) ∨ p ∈ m := by
  induction m with
  | nil => simpa [Memory.insert] using h
  | cons q m ih =>
    obtain ⟨k, v⟩ := q
    unfold Memory.insert at h
    split at h
    · simpa using h
    · split at h
      · simp only [List.mem_cons] at h ⊢; tauto
      · simp only [List.mem_cons] at h ⊢
        rcases h with h | h
        · exact .inr (.inl h)
        · rcases ih h with h | h <;> tauto

/-- Insertion keeps the canonical form. -/
theorem Memory.insert_wf {m : Memory} {a : Nat} (b : Byte) (h : Memory.wf m) (ha : a < 2 ^ 32) :
    Memory.wf (Memory.insert m a b) := by
  refine ⟨?_, fun p hp => ?_⟩
  · obtain ⟨hs, -⟩ := h
    induction m with
    | nil => simp [Memory.insert]
    | cons q m ih =>
      obtain ⟨k, v⟩ := q
      rw [List.pairwise_cons] at hs
      unfold Memory.insert
      split
      · rename_i hlt
        simp only [List.pairwise_cons]
        refine ⟨fun p hp => ?_, hs⟩
        rcases List.mem_cons.1 hp with rfl | hp
        · exact hlt
        · exact Nat.lt_trans hlt (hs.1 p hp)
      · split
        · rename_i _ heq
          subst heq
          exact List.pairwise_cons.2 hs
        · rename_i h1 h2
          refine List.pairwise_cons.2 ⟨fun p hp => ?_, ih hs.2⟩
          rcases Memory.mem_insert hp with rfl | hp
          · show k < a
            omega
          · exact hs.1 p hp
  · rcases Memory.mem_insert hp with rfl | hp
    · exact ha
    · exact h.2 p hp

/-- Erasure keeps the canonical form. -/
theorem Memory.erase_wf {m : Memory} (a : Nat) (h : Memory.wf m) : Memory.wf (Memory.erase m a) :=
  ⟨h.1.filter _, fun p hp => h.2 p (List.mem_of_mem_filter hp)⟩

/-- The host's changes of source memory keep the canonical form. -/
theorem Memory.put_wf {m : Memory} (a : Word) (b : Option Byte) (h : Memory.wf m) : Memory.wf (Memory.put m a.toNat b) := by
  cases b with
  | none => exact Memory.erase_wf _ h
  | some b => exact Memory.insert_wf b h a.isLt

/-- A source read is the listed byte, or a fault at its own address (R55). -/
theorem srcRead_eq_ok {m : Memory} {a : Nat} {b : Byte} :
    srcRead m a = .ok b ↔ a < 2 ^ 32 ∧ Memory.lookup m a = some b := by
  unfold srcRead
  split
  · split <;> simp_all
  · simp_all

theorem srcRead_eq_error {m : Memory} {a e : Nat} (h : srcRead m a = .error e) : e = a := by
  unfold srcRead at h
  split at h
  · split at h <;> simp_all
  · simp_all

/-- Two reads make a little-endian pair (R56); the fault of the first decides. -/
theorem memRead_two (m : Memory) (a : Nat) :
    memRead m a 2 =
      match srcRead m a with
      | .error e => .error e
      | .ok b0 =>
        match srcRead m (a + 1) with
        | .error e => .error e
        | .ok b1 => .ok (b0.toNat + 256 * b1.toNat) := by
  simp only [memRead]
  cases srcRead m a <;> [rfl; cases srcRead m (a + 1) <;> simp]

end Sys2Proof.Machine
end

