-- ==== Sys2Proof/Laws/State.lean ====
section
/-! SUPPORT. What each shared update of the state leaves in each field: one lemma a field, so that no later
proof unfolds a record update. -/

namespace Sys2Proof.Machine

/-! ### `State.begin` -/

@[simp] theorem State.begin_fb (s : State) : (s.begin).fb = s.fb := rfl
@[simp] theorem State.begin_session (s : State) : (s.begin).session = s.session := rfl
@[simp] theorem State.begin_curx (s : State) : (s.begin).curx = s.curx := rfl
@[simp] theorem State.begin_cury (s : State) : (s.begin).cury = s.cury := rfl
@[simp] theorem State.begin_dispon (s : State) : (s.begin).dispon = s.dispon := rfl
@[simp] theorem State.begin_contrast (s : State) : (s.begin).contrast = s.contrast := rfl
@[simp] theorem State.begin_fontValid (s : State) : (s.begin).fontValid = s.fontValid := rfl
@[simp] theorem State.begin_fontW (s : State) : (s.begin).fontW = s.fontW := rfl
@[simp] theorem State.begin_fontH (s : State) : (s.begin).fontH = s.fontH := rfl
@[simp] theorem State.begin_fontCwen (s : State) : (s.begin).fontCwen = s.fontCwen := rfl
@[simp] theorem State.begin_fontData (s : State) : (s.begin).fontData = s.fontData := rfl
@[simp] theorem State.begin_fontCw (s : State) : (s.begin).fontCw = s.fontCw := rfl
@[simp] theorem State.begin_last (s : State) : (s.begin).last = s.last := rfl
@[simp] theorem State.begin_result (s : State) : (s.begin).result = s.result := rfl
@[simp] theorem State.begin_faultPreInit (s : State) : (s.begin).faultPreInit = s.faultPreInit := rfl
@[simp] theorem State.begin_faultSrc (s : State) : (s.begin).faultSrc = s.faultSrc := rfl
@[simp] theorem State.begin_busy (s : State) : (s.begin).busy = true := rfl
@[simp] theorem State.begin_pkt (s : State) : (s.begin).pkt = s.pkt := rfl
@[simp] theorem State.begin_wait (s : State) : (s.begin).wait = s.wait := rfl
@[simp] theorem State.begin_trace (s : State) : (s.begin).trace = s.trace := rfl
@[simp] theorem State.begin_cfg (s : State) : (s.begin).cfg = s.cfg := rfl
@[simp] theorem State.begin_src (s : State) : (s.begin).src = s.src := rfl
@[simp] theorem State.begin_answers (s : State) : (s.begin).answers = s.answers := rfl
@[simp] theorem State.begin_inputs (s : State) : (s.begin).inputs = s.inputs := rfl
@[simp] theorem State.begin_faultInfo (s : State) : (s.begin).faultInfo = s.faultInfo := rfl
@[simp] theorem State.begin_resets (s : State) : (s.begin).resets = s.resets := rfl

/-! ### `State.complete` -/

@[simp] theorem State.complete_fb (st : Status) (r : Byte) (s : State) : (s.complete st r).fb = s.fb := rfl
@[simp] theorem State.complete_session (st : Status) (r : Byte) (s : State) : (s.complete st r).session = s.session := rfl
@[simp] theorem State.complete_curx (st : Status) (r : Byte) (s : State) : (s.complete st r).curx = s.curx := rfl
@[simp] theorem State.complete_cury (st : Status) (r : Byte) (s : State) : (s.complete st r).cury = s.cury := rfl
@[simp] theorem State.complete_dispon (st : Status) (r : Byte) (s : State) : (s.complete st r).dispon = s.dispon := rfl
@[simp] theorem State.complete_contrast (st : Status) (r : Byte) (s : State) : (s.complete st r).contrast = s.contrast := rfl
@[simp] theorem State.complete_fontValid (st : Status) (r : Byte) (s : State) : (s.complete st r).fontValid = s.fontValid := rfl
@[simp] theorem State.complete_fontW (st : Status) (r : Byte) (s : State) : (s.complete st r).fontW = s.fontW := rfl
@[simp] theorem State.complete_fontH (st : Status) (r : Byte) (s : State) : (s.complete st r).fontH = s.fontH := rfl
@[simp] theorem State.complete_fontCwen (st : Status) (r : Byte) (s : State) : (s.complete st r).fontCwen = s.fontCwen := rfl
@[simp] theorem State.complete_fontData (st : Status) (r : Byte) (s : State) : (s.complete st r).fontData = s.fontData := rfl
@[simp] theorem State.complete_fontCw (st : Status) (r : Byte) (s : State) : (s.complete st r).fontCw = s.fontCw := rfl
@[simp] theorem State.complete_last (st : Status) (r : Byte) (s : State) : (s.complete st r).last = st := rfl
@[simp] theorem State.complete_result (st : Status) (r : Byte) (s : State) : (s.complete st r).result = r := rfl
@[simp] theorem State.complete_faultPreInit (st : Status) (r : Byte) (s : State) : (s.complete st r).faultPreInit = s.faultPreInit := rfl
@[simp] theorem State.complete_faultSrc (st : Status) (r : Byte) (s : State) : (s.complete st r).faultSrc = s.faultSrc := rfl
@[simp] theorem State.complete_busy (st : Status) (r : Byte) (s : State) : (s.complete st r).busy = false := rfl
@[simp] theorem State.complete_pkt (st : Status) (r : Byte) (s : State) : (s.complete st r).pkt = s.pkt := rfl
@[simp] theorem State.complete_wait (st : Status) (r : Byte) (s : State) : (s.complete st r).wait = s.wait := rfl
@[simp] theorem State.complete_trace (st : Status) (r : Byte) (s : State) : (s.complete st r).trace = s.trace := rfl
@[simp] theorem State.complete_cfg (st : Status) (r : Byte) (s : State) : (s.complete st r).cfg = s.cfg := rfl
@[simp] theorem State.complete_src (st : Status) (r : Byte) (s : State) : (s.complete st r).src = s.src := rfl
@[simp] theorem State.complete_answers (st : Status) (r : Byte) (s : State) : (s.complete st r).answers = s.answers := rfl
@[simp] theorem State.complete_inputs (st : Status) (r : Byte) (s : State) : (s.complete st r).inputs = s.inputs := rfl
@[simp] theorem State.complete_faultInfo (st : Status) (r : Byte) (s : State) : (s.complete st r).faultInfo = s.faultInfo := rfl
@[simp] theorem State.complete_resets (st : Status) (r : Byte) (s : State) : (s.complete st r).resets = s.resets := rfl

/-! ### `State.withFb` -/

@[simp] theorem State.withFb_fb (fb : List Byte) (s : State) : (s.withFb fb).fb = fb := rfl
@[simp] theorem State.withFb_session (fb : List Byte) (s : State) : (s.withFb fb).session = s.session := rfl
@[simp] theorem State.withFb_curx (fb : List Byte) (s : State) : (s.withFb fb).curx = s.curx := rfl
@[simp] theorem State.withFb_cury (fb : List Byte) (s : State) : (s.withFb fb).cury = s.cury := rfl
@[simp] theorem State.withFb_dispon (fb : List Byte) (s : State) : (s.withFb fb).dispon = s.dispon := rfl
@[simp] theorem State.withFb_contrast (fb : List Byte) (s : State) : (s.withFb fb).contrast = s.contrast := rfl
@[simp] theorem State.withFb_fontValid (fb : List Byte) (s : State) : (s.withFb fb).fontValid = s.fontValid := rfl
@[simp] theorem State.withFb_fontW (fb : List Byte) (s : State) : (s.withFb fb).fontW = s.fontW := rfl
@[simp] theorem State.withFb_fontH (fb : List Byte) (s : State) : (s.withFb fb).fontH = s.fontH := rfl
@[simp] theorem State.withFb_fontCwen (fb : List Byte) (s : State) : (s.withFb fb).fontCwen = s.fontCwen := rfl
@[simp] theorem State.withFb_fontData (fb : List Byte) (s : State) : (s.withFb fb).fontData = s.fontData := rfl
@[simp] theorem State.withFb_fontCw (fb : List Byte) (s : State) : (s.withFb fb).fontCw = s.fontCw := rfl
@[simp] theorem State.withFb_last (fb : List Byte) (s : State) : (s.withFb fb).last = s.last := rfl
@[simp] theorem State.withFb_result (fb : List Byte) (s : State) : (s.withFb fb).result = s.result := rfl
@[simp] theorem State.withFb_faultPreInit (fb : List Byte) (s : State) : (s.withFb fb).faultPreInit = s.faultPreInit := rfl
@[simp] theorem State.withFb_faultSrc (fb : List Byte) (s : State) : (s.withFb fb).faultSrc = s.faultSrc := rfl
@[simp] theorem State.withFb_busy (fb : List Byte) (s : State) : (s.withFb fb).busy = s.busy := rfl
@[simp] theorem State.withFb_pkt (fb : List Byte) (s : State) : (s.withFb fb).pkt = s.pkt := rfl
@[simp] theorem State.withFb_wait (fb : List Byte) (s : State) : (s.withFb fb).wait = s.wait := rfl
@[simp] theorem State.withFb_trace (fb : List Byte) (s : State) : (s.withFb fb).trace = s.trace := rfl
@[simp] theorem State.withFb_cfg (fb : List Byte) (s : State) : (s.withFb fb).cfg = s.cfg := rfl
@[simp] theorem State.withFb_src (fb : List Byte) (s : State) : (s.withFb fb).src = s.src := rfl
@[simp] theorem State.withFb_answers (fb : List Byte) (s : State) : (s.withFb fb).answers = s.answers := rfl
@[simp] theorem State.withFb_inputs (fb : List Byte) (s : State) : (s.withFb fb).inputs = s.inputs := rfl
@[simp] theorem State.withFb_faultInfo (fb : List Byte) (s : State) : (s.withFb fb).faultInfo = s.faultInfo := rfl
@[simp] theorem State.withFb_resets (fb : List Byte) (s : State) : (s.withFb fb).resets = s.resets := rfl

/-! ### `State.send` -/

@[simp] theorem State.send_fb (t : Tx) (s : State) : (s.send t).fb = s.fb := rfl
@[simp] theorem State.send_session (t : Tx) (s : State) : (s.send t).session = s.session := rfl
@[simp] theorem State.send_curx (t : Tx) (s : State) : (s.send t).curx = s.curx := rfl
@[simp] theorem State.send_cury (t : Tx) (s : State) : (s.send t).cury = s.cury := rfl
@[simp] theorem State.send_dispon (t : Tx) (s : State) : (s.send t).dispon = s.dispon := rfl
@[simp] theorem State.send_contrast (t : Tx) (s : State) : (s.send t).contrast = s.contrast := rfl
@[simp] theorem State.send_fontValid (t : Tx) (s : State) : (s.send t).fontValid = s.fontValid := rfl
@[simp] theorem State.send_fontW (t : Tx) (s : State) : (s.send t).fontW = s.fontW := rfl
@[simp] theorem State.send_fontH (t : Tx) (s : State) : (s.send t).fontH = s.fontH := rfl
@[simp] theorem State.send_fontCwen (t : Tx) (s : State) : (s.send t).fontCwen = s.fontCwen := rfl
@[simp] theorem State.send_fontData (t : Tx) (s : State) : (s.send t).fontData = s.fontData := rfl
@[simp] theorem State.send_fontCw (t : Tx) (s : State) : (s.send t).fontCw = s.fontCw := rfl
@[simp] theorem State.send_last (t : Tx) (s : State) : (s.send t).last = s.last := rfl
@[simp] theorem State.send_result (t : Tx) (s : State) : (s.send t).result = s.result := rfl
@[simp] theorem State.send_faultPreInit (t : Tx) (s : State) : (s.send t).faultPreInit = s.faultPreInit := rfl
@[simp] theorem State.send_faultSrc (t : Tx) (s : State) : (s.send t).faultSrc = s.faultSrc := rfl
@[simp] theorem State.send_busy (t : Tx) (s : State) : (s.send t).busy = s.busy := rfl
@[simp] theorem State.send_pkt (t : Tx) (s : State) : (s.send t).pkt = s.pkt := rfl
@[simp] theorem State.send_wait (t : Tx) (s : State) : (s.send t).wait = s.wait := rfl
@[simp] theorem State.send_trace (t : Tx) (s : State) : (s.send t).trace = s.trace ++ [t] := rfl
@[simp] theorem State.send_cfg (t : Tx) (s : State) : (s.send t).cfg = s.cfg := rfl
@[simp] theorem State.send_src (t : Tx) (s : State) : (s.send t).src = s.src := rfl
@[simp] theorem State.send_answers (t : Tx) (s : State) : (s.send t).answers = s.answers := rfl
@[simp] theorem State.send_inputs (t : Tx) (s : State) : (s.send t).inputs = s.inputs := rfl
@[simp] theorem State.send_faultInfo (t : Tx) (s : State) : (s.send t).faultInfo = s.faultInfo := rfl
@[simp] theorem State.send_resets (t : Tx) (s : State) : (s.send t).resets = s.resets := rfl

/-! ### `State.raise` -/

@[simp] theorem State.raise_fb (f : FaultInfo) (s : State) : (s.raise f).fb = s.fb := by cases f <;> rfl
@[simp] theorem State.raise_session (f : FaultInfo) (s : State) : (s.raise f).session = s.session := by cases f <;> rfl
@[simp] theorem State.raise_curx (f : FaultInfo) (s : State) : (s.raise f).curx = s.curx := by cases f <;> rfl
@[simp] theorem State.raise_cury (f : FaultInfo) (s : State) : (s.raise f).cury = s.cury := by cases f <;> rfl
@[simp] theorem State.raise_dispon (f : FaultInfo) (s : State) : (s.raise f).dispon = s.dispon := by cases f <;> rfl
@[simp] theorem State.raise_contrast (f : FaultInfo) (s : State) : (s.raise f).contrast = s.contrast := by cases f <;> rfl
@[simp] theorem State.raise_fontValid (f : FaultInfo) (s : State) : (s.raise f).fontValid = s.fontValid := by cases f <;> rfl
@[simp] theorem State.raise_fontW (f : FaultInfo) (s : State) : (s.raise f).fontW = s.fontW := by cases f <;> rfl
@[simp] theorem State.raise_fontH (f : FaultInfo) (s : State) : (s.raise f).fontH = s.fontH := by cases f <;> rfl
@[simp] theorem State.raise_fontCwen (f : FaultInfo) (s : State) : (s.raise f).fontCwen = s.fontCwen := by cases f <;> rfl
@[simp] theorem State.raise_fontData (f : FaultInfo) (s : State) : (s.raise f).fontData = s.fontData := by cases f <;> rfl
@[simp] theorem State.raise_fontCw (f : FaultInfo) (s : State) : (s.raise f).fontCw = s.fontCw := by cases f <;> rfl
@[simp] theorem State.raise_last (f : FaultInfo) (s : State) : (s.raise f).last = s.last := by cases f <;> rfl
@[simp] theorem State.raise_result (f : FaultInfo) (s : State) : (s.raise f).result = s.result := by cases f <;> rfl
@[simp] theorem State.raise_pkt (f : FaultInfo) (s : State) : (s.raise f).pkt = s.pkt := by cases f <;> rfl
@[simp] theorem State.raise_wait (f : FaultInfo) (s : State) : (s.raise f).wait = s.wait := by cases f <;> rfl
@[simp] theorem State.raise_trace (f : FaultInfo) (s : State) : (s.raise f).trace = s.trace := by cases f <;> rfl
@[simp] theorem State.raise_cfg (f : FaultInfo) (s : State) : (s.raise f).cfg = s.cfg := by cases f <;> rfl
@[simp] theorem State.raise_src (f : FaultInfo) (s : State) : (s.raise f).src = s.src := by cases f <;> rfl
@[simp] theorem State.raise_answers (f : FaultInfo) (s : State) : (s.raise f).answers = s.answers := by cases f <;> rfl
@[simp] theorem State.raise_inputs (f : FaultInfo) (s : State) : (s.raise f).inputs = s.inputs := by cases f <;> rfl
@[simp] theorem State.raise_resets (f : FaultInfo) (s : State) : (s.raise f).resets = s.resets := by cases f <;> rfl

@[simp] theorem State.raise_busy (f : FaultInfo) (s : State) : (s.raise f).busy = true := by cases f <;> rfl
@[simp] theorem State.raise_faultInfo (f : FaultInfo) (s : State) : (s.raise f).faultInfo = some f := by cases f <;> rfl
@[simp] theorem State.raise_faulted (f : FaultInfo) (s : State) : (s.raise f).faulted = true := by
  cases f <;> simp [State.raise, State.faulted]
theorem State.raise_preInitFault (op : Byte) (s : State) :
    s.raise (.preInit op) = { s with faultPreInit := true, faultInfo := some (.preInit op), busy := true } := rfl
theorem State.raise_srcFault (a : Nat) (s : State) :
    s.raise (.src a) = { s with faultSrc := true, faultInfo := some (.src a), busy := true } := rfl

/-! ### `State.txError` -/

@[simp] theorem State.txError_fb (s : State) : (s.txError).fb = s.fb := rfl
@[simp] theorem State.txError_session (s : State) : (s.txError).session = if s.session = .initializing then .uninitialized else s.session := rfl
@[simp] theorem State.txError_curx (s : State) : (s.txError).curx = s.curx := rfl
@[simp] theorem State.txError_cury (s : State) : (s.txError).cury = s.cury := rfl
@[simp] theorem State.txError_dispon (s : State) : (s.txError).dispon = s.dispon := rfl
@[simp] theorem State.txError_contrast (s : State) : (s.txError).contrast = s.contrast := rfl
@[simp] theorem State.txError_fontValid (s : State) : (s.txError).fontValid = s.fontValid := rfl
@[simp] theorem State.txError_fontW (s : State) : (s.txError).fontW = s.fontW := rfl
@[simp] theorem State.txError_fontH (s : State) : (s.txError).fontH = s.fontH := rfl
@[simp] theorem State.txError_fontCwen (s : State) : (s.txError).fontCwen = s.fontCwen := rfl
@[simp] theorem State.txError_fontData (s : State) : (s.txError).fontData = s.fontData := rfl
@[simp] theorem State.txError_fontCw (s : State) : (s.txError).fontCw = s.fontCw := rfl
@[simp] theorem State.txError_last (s : State) : (s.txError).last = .transportError := rfl
@[simp] theorem State.txError_result (s : State) : (s.txError).result = 0x00#8 := rfl
@[simp] theorem State.txError_faultPreInit (s : State) : (s.txError).faultPreInit = s.faultPreInit := rfl
@[simp] theorem State.txError_faultSrc (s : State) : (s.txError).faultSrc = s.faultSrc := rfl
@[simp] theorem State.txError_busy (s : State) : (s.txError).busy = false := rfl
@[simp] theorem State.txError_pkt (s : State) : (s.txError).pkt = s.pkt := rfl
@[simp] theorem State.txError_wait (s : State) : (s.txError).wait = s.wait := rfl
@[simp] theorem State.txError_trace (s : State) : (s.txError).trace = s.trace := rfl
@[simp] theorem State.txError_cfg (s : State) : (s.txError).cfg = s.cfg := rfl
@[simp] theorem State.txError_src (s : State) : (s.txError).src = s.src := rfl
@[simp] theorem State.txError_answers (s : State) : (s.txError).answers = s.answers := rfl
@[simp] theorem State.txError_inputs (s : State) : (s.txError).inputs = s.inputs := rfl
@[simp] theorem State.txError_faultInfo (s : State) : (s.txError).faultInfo = s.faultInfo := rfl
@[simp] theorem State.txError_resets (s : State) : (s.txError).resets = s.resets := rfl

/-! ### Reset -/

@[simp] theorem State.assertReset_eq (s : State) :
    s.assertReset = State.resetWith s.cfg s.src s.answers s.inputs (s.resets + 1) := rfl

theorem State.reset_fb_length (cfg : Config) (src : Memory) (as : List Answer) (ms : List Input) (n : Nat) :
    (State.resetWith cfg src as ms n).fb.length = cfg.bufSize := by
  simp [State.resetWith]

end Sys2Proof.Machine
end

