-- ==== Sys2Proof/Laws/Ops.lean ====
section
/-! SUPPORT. What each shared operation can do, said once: the start of a command, a painted point list, a loop
that reads source memory, a character or string write, and a transport command. -/

namespace Sys2Proof.Machine

/-! ## Starting a command (30_encoding.md R72) -/

/-- Everything `execute` can do: ILLEGAL, a `PreInitFault`, or the body. -/
theorem execute_cases {op : Byte} {legal : Bool} {body : State → State} {s t : State}
    (h : execute op legal body s = .next t) :
    (legal = false ∧ t = { s with last := .illegal, result := 0x00#8, busy := false }) ∨
    (legal = true ∧ s.session ≠ .ready ∧
      t = { s with faultPreInit := true, faultInfo := some (.preInit op), busy := true }) ∨
    (legal = true ∧ s.session = .ready ∧ t = body s.begin) := by
  unfold execute at h
  split at h
  · split at h
    · cases h; exact .inr (.inr ⟨by assumption, by assumption, rfl⟩)
    · cases h; exact .inr (.inl ⟨by assumption, by assumption, rfl⟩)
  · rename_i hl
    cases h
    exact .inl ⟨by simpa using hl, rfl⟩

theorem execute_illegal (op : Byte) (body : State → State) (s : State) :
    execute op false body s = .next { s with last := .illegal, result := 0x00#8, busy := false } := rfl

theorem execute_preInit {op : Byte} {legal : Bool} {body : State → State} {s : State} (hl : legal = true)
    (hs : s.session ≠ .ready) :
    execute op legal body s = .next { s with faultPreInit := true, faultInfo := some (.preInit op), busy := true } := by
  simp [execute, hl, hs, State.begin, State.raise]

theorem execute_body {op : Byte} {legal : Bool} {body : State → State} {s : State} (hl : legal = true)
    (hs : s.session = .ready) : execute op legal body s = .next (body s.begin) := by
  simp [execute, hl, hs]

/-- A command that plots a list of points in one colour paints exactly their in-bounds pixels and completes OK. -/
theorem execute_paintAll {op : Byte} {legal : Bool} {s : State} (c : Color) (pts : List Point) (hl : legal = true)
    (hs : s.CanRun) :
    ∃ t, execute op legal (State.paintAll c pts) s = .next t ∧ PaintedBy c (fun x y => ⟨x, y⟩ ∈ pts) s t := by
  refine ⟨_, execute_body hl hs.session, ⟨rfl, by simp [State.paintAll]⟩, ?_, ?_⟩
  · intro x y hx hy hp
    simp [State.paintAll, pixel_paint hs.cfgLegal hs.fbSize c pts hx hy, hp]
  · intro x y hx hy hp
    simp [State.paintAll, pixel_paint hs.cfgLegal hs.fbSize c pts hx hy, hp]

/-- A painted shape may be described by any other shape with the same in-bounds points. -/
theorem PaintedBy.congr {c : Color} {p q : Int → Int → Prop} {s t : State} (h : PaintedBy c p s t)
    (hpq : ∀ x y : Nat, x < s.cfg.width → y < s.cfg.height → (p x y ↔ q x y)) : PaintedBy c q s t where
  completed := h.completed
  inside x y hx hy hq := h.inside x y hx hy ((hpq x y hx hy).2 hq)
  outside x y hx hy hq := h.outside x y hx hy fun hp => hq ((hpq x y hx hy).1 hp)

/-! ## Loops that read source memory -/

/-- What a loop over `forEach` keeps: a property that every iteration keeps, whether it ends or faults. -/
theorem forEach_keeps {ι α : Type} {P : α → Prop} {f : ι → α → Fetched α}
    (hd : ∀ i v v', P v → f i v = .done v' → P v') (hf : ∀ i v v' a, P v → f i v = .fault v' a → P v')
    (is : List ι) (v : α) (hv : P v) :
    (∀ v', forEach f is v = .done v' → P v') ∧ (∀ v' a, forEach f is v = .fault v' a → P v') := by
  induction is generalizing v with
  | nil => simpa [forEach] using hv
  | cons i is ih =>
    unfold forEach
    cases h : f i v with
    | done w => simpa using ih w (hd i v w hv h)
    | fault w a =>
      refine ⟨by simp, fun v' a' e => ?_⟩
      obtain ⟨rfl, rfl⟩ : w = v' ∧ a = a' := by simpa using e
      exact hf i v w a hv h

/-- A loop in which no iteration faults is a fold. -/
theorem forEach_done {ι α : Type} {f : ι → α → Fetched α} {g : ι → α → α} (is : List ι)
    (h : ∀ i ∈ is, ∀ v, f i v = .done (g i v)) (v : α) :
    forEach f is v = .done (is.foldl (fun v i => g i v) v) := by
  induction is generalizing v with
  | nil => rfl
  | cons i is ih =>
    simp [forEach, h i (by simp) v, ih fun j hj => h j (by simp [hj])]

/-- A loop ends at the first iteration that faults, with what that iteration reached. -/
theorem forEach_fault {ι α : Type} {f : ι → α → Fetched α} {g : ι → α → α} (as : List ι) (i : ι) (bs : List ι)
    (h : ∀ j ∈ as, ∀ v, f j v = .done (g j v)) (v : α) :
    forEach f (as ++ i :: bs) v =
      match f i (as.foldl (fun v j => g j v) v) with
      | .done v' => forEach f bs v'
      | .fault v' a => .fault v' a := by
  induction as generalizing v with
  | nil => rfl
  | cons j as ih =>
    simp [forEach, h j (by simp) v, ih fun k hk => h k (by simp [hk])]

/-- A loop faults at an address at which one of its iterations faults. -/
theorem forEach_fault_address {ι α : Type} {Q : Nat → Prop} {f : ι → α → Fetched α}
    (hf : ∀ i v v' a, f i v = .fault v' a → Q a) (is : List ι) (v v' : α) (a : Nat) (h : forEach f is v = .fault v' a) : Q a := by
  induction is generalizing v with
  | nil => simp [forEach] at h
  | cons i is ih =>
    unfold forEach at h
    cases e : f i v with
    | done w => exact ih w (by simpa [e] using h)
    | fault w b =>
      obtain ⟨-, rfl⟩ : w = v' ∧ b = a := by simpa [e] using h
      exact hf i v w b e

/-! ## Character writes (44_text_bitmap.md R200) -/

@[simp] theorem drawGlyphRow_length (s : State) (c : Color) (i row : Nat) (fb : List Byte) :
    (drawGlyphRow s c i row fb).length = fb.length := by
  unfold drawGlyphRow
  generalize List.range s.fontW.toNat = js
  induction js generalizing fb with
  | nil => rfl
  | cons j js ih => simp [ih]

/-- The fault of a two-byte read is at one of its two addresses, and that address is not readable. -/
theorem memRead_two_error {m : Memory} {a e : Nat} (h : memRead m a 2 = .error e) : srcRead m e = .error e := by
  rw [memRead_two] at h
  split at h
  · rename_i h0; obtain rfl := srcRead_eq_error h0; cases h; exact h0
  · split at h
    · rename_i h1; obtain rfl := srcRead_eq_error h1; cases h; exact h1
    · cases h

/-- A glyph that is drawn, or drawn in part, keeps the framebuffer's size; a fault is at an address that is not
readable. -/
theorem drawGlyph_cases (s : State) (c : Color) (ch : Nat) :
    (∃ fb, drawGlyph s c ch = .done fb ∧ fb.length = s.fb.length) ∨
    (∃ fb a, drawGlyph s c ch = .fault fb a ∧ fb.length = s.fb.length ∧ srcRead s.src a = .error a) := by
  have keep := forEach_keeps (P := fun fb : List Byte => fb.length = s.fb.length)
    (f := fun i fb =>
      match memRead s.src (glyphRowAddr s ch i) 2 with
      | .ok row => .done (drawGlyphRow s c i row fb)
      | .error a => .fault fb a)
    (by intro i v v' hv h; split at h <;> cases h; simpa using hv)
    (by intro i v v' a hv h; split at h <;> cases h; exact hv)
    (List.range s.fontH.toNat) s.fb rfl
  have addr := forEach_fault_address (Q := fun a => srcRead s.src a = .error a)
    (f := fun i fb =>
      match memRead s.src (glyphRowAddr s ch i) 2 with
      | .ok row => .done (drawGlyphRow s c i row fb)
      | .error a => .fault fb a)
    (by intro i v v' a h; split at h <;> cases h; rename_i h; exact memRead_two_error h)
    (List.range s.fontH.toNat) s.fb
  cases h : drawGlyph s c ch with
  | done fb => exact .inl ⟨fb, rfl, keep.1 fb h⟩
  | fault fb a => exact .inr ⟨fb, a, rfl, keep.2 fb a h, addr fb a h⟩

/-- Everything `PutGlyph` can do: refuse the character, write it, or fault at an address that is not readable. Of
the state only the framebuffer, whose size stays, and after a written character CURX change. -/
theorem putGlyph_cases (c : Color) (ch : Nat) (s : State) :
    (∃ st, glyphRefusal s ch = some st ∧ putGlyph c ch s = .refused st) ∨
    (glyphRefusal s ch = none ∧ ∃ fb adv, fb.length = s.fb.length ∧ drawGlyph s c ch = .done fb ∧ glyphAdvance s ch = .ok adv ∧
      putGlyph c ch s = .written { s with fb := fb, curx := s.curx + adv.zeroExtend 16 }) ∨
    (glyphRefusal s ch = none ∧ ∃ fb a, fb.length = s.fb.length ∧ srcRead s.src a = .error a ∧
      putGlyph c ch s = .fault { s with fb := fb } a) := by
  unfold putGlyph
  cases hr : glyphRefusal s ch with
  | some st => exact .inl ⟨st, rfl, rfl⟩
  | none =>
    refine .inr ?_
    obtain ⟨fb, hd, hl⟩ | ⟨fb, a, hd, hl, ha⟩ := drawGlyph_cases s c ch
    · cases hg : glyphAdvance s ch with
      | ok adv => exact .inl ⟨rfl, fb, adv, hl, hd, rfl, by simp only [hd]; rfl⟩
      | error a =>
        refine .inr ⟨rfl, fb, a, hl, ?_, by simp only [hd]; rfl⟩
        unfold glyphAdvance at hg
        split at hg
        · obtain rfl := srcRead_eq_error hg; exact hg
        · cases hg
    · exact .inr ⟨rfl, fb, a, hl, ha, by simp only [hd]; rfl⟩

/-- What a string write keeps: a property of the state that a written character, a completion and a `SrcFault` at
an address that is not readable keep. -/
theorem writeString_keeps {P : State → Prop} (c : Color)
    (hw : ∀ (s : State) (fb : List Byte) (x : Half), P s → fb.length = s.fb.length → P { s with fb := fb, curx := x })
    (hc : ∀ (s : State) (st : Status) (r : Byte), P s → P (s.complete st r))
    (hf : ∀ (s : State) (a : Nat), P s → (∀ b, srcRead s.src a ≠ .ok b) → P (s.raise (.src a)))
    (n a : Nat) (ha : a + n = 2 ^ 32) (s : State) (hs : P s) : P (writeString c n a s) := by
  induction n generalizing a s with
  | zero =>
    obtain rfl : a = 2 ^ 32 := by omega
    exact hf s _ hs (by intro b hb; have := (srcRead_eq_ok.1 hb).1; omega)
  | succ n ih =>
    unfold writeString
    split
    · rename_i e he
      obtain rfl := srcRead_eq_error he
      exact hf s _ hs (by simp [he])
    · split
      · exact hc s _ _ hs
      · rename_i ch _ _
        obtain ⟨st, -, hp⟩ | ⟨-, fb, adv, hl, -, -, hp⟩ | ⟨-, fb, b, hl, hb, hp⟩ := putGlyph_cases c ch.toNat s
        · simp only [hp]; exact hc s _ _ hs
        · simp only [hp]; exact ih (a + 1) (by omega) _ (hw s fb _ hs hl)
        · simp only [hp]; exact hf _ b (hw s fb s.curx hs hl) (by simp [hb])

/-! ## Transport commands (20_memory.md R60) -/

/-- An operation sends exactly when it has a transaction, whatever the state. -/
theorem TxOp.tx_isSome (op : TxOp) (s : State) : (op.tx s).isSome = op.sends := by cases op <;> rfl

@[simp] theorem afterSends_zero (ops : List TxOp) : afterSends 0 ops = ops := by cases ops <;> rfl

@[simp] theorem afterSends_nil (n : Nat) : afterSends n [] = [] := by cases n <;> rfl

theorem afterSends_send {op : TxOp} (n : Nat) (ops : List TxOp) (h : op.sends = true) :
    afterSends (n + 1) (op :: ops) = afterSends n ops := by simp [afterSends, h]

theorem afterSends_apply {op : TxOp} (n : Nat) (ops : List TxOp) (h : op.sends = false) :
    afterSends (n + 1) (op :: ops) = afterSends (n + 1) ops := by simp [afterSends, h]

/-- The registers and the environment that no transport command writes. -/
theorem runTx_keeps (ops : List TxOp) (s : State) :
    (runTx ops s).cfg = s.cfg ∧ (runTx ops s).src = s.src ∧ (runTx ops s).inputs = s.inputs ∧
    (runTx ops s).pkt = s.pkt ∧ (runTx ops s).resets = s.resets ∧ (runTx ops s).faultInfo = s.faultInfo ∧
    (runTx ops s).faultPreInit = s.faultPreInit ∧ (runTx ops s).faultSrc = s.faultSrc ∧
    (runTx ops s).fontValid = s.fontValid ∧ (runTx ops s).fontW = s.fontW ∧ (runTx ops s).fontH = s.fontH ∧
    (runTx ops s).fontCwen = s.fontCwen ∧ (runTx ops s).fontData = s.fontData ∧ (runTx ops s).fontCw = s.fontCw := by
  induction ops generalizing s with
  | nil => simp [runTx]
  | cons op ops ih =>
    unfold runTx
    split
    · cases op <;> simpa [TxOp.apply] using ih _
    · split
      · simp
      · simpa using ih _
      · simp

/-- An operation that sends, with its answers. -/
theorem runTx_send {op : TxOp} {t : Tx} (ops : List TxOp) (s : State) (h : op.tx s = some t) :
    runTx (op :: ops) s =
      match s.answers with
      | [] => { s.send t with wait := some ops }
      | .ok :: as => runTx ops { s.send t with answers := as }
      | .err :: as => State.txError { s.send t with answers := as } := by
  rcases hs : s.answers with _ | ⟨_ | _, _⟩ <;> simp [runTx, h, hs]

/-- An operation that sends nothing. -/
theorem runTx_apply {op : TxOp} (ops : List TxOp) (s : State) (h : op.tx s = none) :
    runTx (op :: ops) s = runTx ops (op.apply s) := by
  simp [runTx, h]

/-- A transport command neither reads nor makes a move of the environment. -/
theorem runTx_inputs (ops : List TxOp) (s : State) (ms : List Input) :
    runTx ops { s with inputs := ms } = { runTx ops s with inputs := ms } := by
  induction ops generalizing s with
  | nil => rfl
  | cons op ops ih =>
    have htx : op.tx { s with inputs := ms } = op.tx s := by cases op <;> rfl
    have happ : op.apply { s with inputs := ms } = { op.apply s with inputs := ms } := by cases op <;> rfl
    cases h : op.tx s with
    | none => rw [runTx_apply ops _ (htx.trans h), runTx_apply ops s h, happ, ih]
    | some t =>
      rw [runTx_send ops _ (htx.trans h), runTx_send ops s h]
      dsimp only
      split
      · rfl
      · exact ih { s.send t with answers := _ }
      · rfl

/-- A run of command bytes that are all answered OK. -/
theorem runTx_cmds (bs : List Byte) (ops : List TxOp) (s : State) (as : List Answer)
    (h : s.answers = List.replicate bs.length .ok ++ as) :
    runTx (bs.map .cmd ++ ops) s = runTx ops { s with trace := s.trace ++ bs.map .cmd, answers := as } := by
  induction bs generalizing s with
  | nil => simp only [List.length_nil, List.replicate_zero, List.nil_append] at h; subst h; simp
  | cons b bs ih =>
    simp only [List.length_cons, List.replicate_succ, List.cons_append] at h
    simp only [List.map_cons, List.cons_append]
    rw [runTx_send _ _ (t := .cmd b) rfl, h]
    simp only
    rw [ih _ rfl]
    simp [State.send]

/-- How a transport command ends: it completes OK, it completes TRANSPORT_ERROR, or it waits, with no answer
left, and with a shorter part of its work to do. -/
theorem runTx_cases (ops : List TxOp) (s : State) :
    ((runTx ops s).busy = false ∧ (runTx ops s).wait = s.wait ∧ (runTx ops s).last = .ok ∧ (runTx ops s).result = 0x00#8) ∨
    ((runTx ops s).busy = false ∧ (runTx ops s).wait = s.wait ∧ (runTx ops s).last = .transportError ∧
      (runTx ops s).result = 0x00#8 ∧ (runTx ops s).session ≠ .initializing) ∨
    ((runTx ops s).busy = s.busy ∧ (runTx ops s).answers = [] ∧ (runTx ops s).last = s.last ∧
      (runTx ops s).result = s.result ∧ ∃ op rest, (runTx ops s).wait = some rest ∧ op :: rest <:+ ops) := by
  induction ops generalizing s with
  | nil => exact .inl (by simp [runTx])
  | cons op ops ih =>
    have lift : ∀ {t : State}, (∃ op' rest, t.wait = some rest ∧ op' :: rest <:+ ops) →
        ∃ op' rest, t.wait = some rest ∧ op' :: rest <:+ op :: ops := fun ⟨o, r, h1, h2⟩ =>
      ⟨o, r, h1, h2.trans (List.suffix_cons _ _)⟩
    unfold runTx
    split
    · have hk : ∀ s : State, (op.apply s).busy = s.busy ∧ (op.apply s).wait = s.wait ∧ (op.apply s).last = s.last ∧
          (op.apply s).result = s.result := fun s => by cases op <;> simp [TxOp.apply]
      obtain ⟨h1, h2, h3, h4⟩ := hk s
      rcases ih (op.apply s) with h | h | h
      · exact .inl (by simpa [h1, h2] using h)
      · exact .inr (.inl (by simpa [h1, h2] using h))
      · refine .inr (.inr ⟨by simpa [h1] using h.1, h.2.1, by simpa [h3] using h.2.2.1, by simpa [h4] using h.2.2.2.1, lift h.2.2.2.2⟩)
    · split
      · exact .inr (.inr ⟨by simp, by simpa using by assumption, by simp, by simp, op, ops, rfl, List.suffix_refl _⟩)
      · rcases ih _ with h | h | h
        · exact .inl h
        · exact .inr (.inl h)
        · exact .inr (.inr ⟨h.1, h.2.1, h.2.2.1, h.2.2.2.1, lift h.2.2.2.2⟩)
      · refine .inr (.inl ?_)
        by_cases hs : s.session = .initializing <;> simp [hs]

end Sys2Proof.Machine
end

