-- ==== Sys2Proof/Laws/PerInstr.lean ====
section
/-! SUPPORT. The family PacketShape: what holds of every command's packet as bytes. -/

namespace Sys2Proof.Laws.PacketShape

/-- The packet of a command starts with an assigned opcode and has that opcode's length (30_encoding.md R70,
R71), at most 12 bytes. -/
def Statement (i : Instr) : Prop :=
  reservedOpcode (opcodeOf i) = false ∧ (encode i).length = packetLen (opcodeOf i) ∧ (encode i).length ≤ 12

theorem init : Statement .init := by unfold Statement; decide
theorem fill (c : Byte) : Statement (.fill c) := ⟨rfl, rfl, Nat.le_of_ble_eq_true rfl⟩
theorem load (a : Word) (n : Half) : Statement (.load a n) := ⟨rfl, rfl, Nat.le_of_ble_eq_true rfl⟩
theorem flush : Statement .flush := by unfold Statement; decide
theorem setcontrast (v : Byte) : Statement (.setcontrast v) := ⟨rfl, rfl, Nat.le_of_ble_eq_true rfl⟩
theorem setdisp (b : Byte) : Statement (.setdisp b) := ⟨rfl, rfl, Nat.le_of_ble_eq_true rfl⟩
theorem getdisp : Statement .getdisp := by unfold Statement; decide
theorem pixel (x y c : Byte) : Statement (.pixel x y c) := ⟨rfl, rfl, Nat.le_of_ble_eq_true rfl⟩
theorem line (x1 y1 x2 y2 c : Byte) : Statement (.line x1 y1 x2 y2 c) := ⟨rfl, rfl, Nat.le_of_ble_eq_true rfl⟩
theorem polyline (a : Word) (n : Half) (c : Byte) : Statement (.polyline a n c) := ⟨rfl, rfl, Nat.le_of_ble_eq_true rfl⟩
theorem rect (x1 y1 x2 y2 c : Byte) : Statement (.rect x1 y1 x2 y2 c) := ⟨rfl, rfl, Nat.le_of_ble_eq_true rfl⟩
theorem fillrect (x1 y1 x2 y2 c : Byte) : Statement (.fillrect x1 y1 x2 y2 c) := ⟨rfl, rfl, Nat.le_of_ble_eq_true rfl⟩
theorem invrect (x1 y1 x2 y2 : Byte) : Statement (.invrect x1 y1 x2 y2) := ⟨rfl, rfl, Nat.le_of_ble_eq_true rfl⟩
theorem circle (x y r c : Byte) : Statement (.circle x y r c) := ⟨rfl, rfl, Nat.le_of_ble_eq_true rfl⟩
theorem fillcircle (x y r c : Byte) : Statement (.fillcircle x y r c) := ⟨rfl, rfl, Nat.le_of_ble_eq_true rfl⟩
theorem arc (x y r : Byte) (s w : Half) (c : Byte) : Statement (.arc x y r s w c) := ⟨rfl, rfl, Nat.le_of_ble_eq_true rfl⟩
theorem arcrl (x y r : Byte) (s w : Half) (c : Byte) : Statement (.arcrl x y r s w c) := ⟨rfl, rfl, Nat.le_of_ble_eq_true rfl⟩
theorem filltri (x0 y0 x1 y1 x2 y2 c : Byte) : Statement (.filltri x0 y0 x1 y1 x2 y2 c) :=
  ⟨rfl, rfl, Nat.le_of_ble_eq_true rfl⟩
theorem setfont (w h f : Byte) (d cw : Word) : Statement (.setfont w h f d cw) := ⟨rfl, rfl, Nat.le_of_ble_eq_true rfl⟩
theorem setcursor (x y : Half) : Statement (.setcursor x y) := ⟨rfl, rfl, Nat.le_of_ble_eq_true rfl⟩
theorem wrchar (h c : Byte) : Statement (.wrchar h c) := ⟨rfl, rfl, Nat.le_of_ble_eq_true rfl⟩
theorem wrstr (a : Word) (c : Byte) : Statement (.wrstr a c) := ⟨rfl, rfl, Nat.le_of_ble_eq_true rfl⟩
theorem bitmap (x y : Byte) (a : Word) (w h c : Byte) : Statement (.bitmap x y a w h c) := ⟨rfl, rfl, Nat.le_of_ble_eq_true rfl⟩

end Sys2Proof.Laws.PacketShape
end

