-- ==== Sys2Proof/Laws/Step.lean ====
section
/-! SUPPORT. Everything a step can do, said once (70_reset_and_hazards.md R284). -/

namespace Sys2Proof.Machine

/-- A packet's execution is its command's, or the ILLEGAL completion of bytes that are no command (R78). -/
theorem executePacket_cases {p : List Byte} {s t : State} (h : executePacket p s = .next t) :
    (∃ i, decodePacket p = .ok i ∧ exec i s = .next t) ∨
    (∃ e, decodePacket p = .error e ∧ t = { s with last := .illegal, result := 0x00#8, busy := false }) := by
  unfold executePacket at h
  split at h
  · rename_i i hi; exact .inl ⟨i, hi, h⟩
  · rename_i e he; cases h; exact .inr ⟨e, he, rfl⟩

/-- Everything a CMD write can do (10_state.md R35, 60_exceptions.md R258). -/
theorem cmdWrite_cases {b : Byte} {s t : State} (h : cmdWrite b s = .next t) :
    (s.busy = true ∧ s.faulted = true ∧ t = s) ∨
    (s.busy = false ∧ packetComplete (s.pkt ++ [b]) = false ∧ t = { s with pkt := s.pkt ++ [b] }) ∨
    (s.busy = false ∧ packetComplete (s.pkt ++ [b]) = true ∧ executePacket (s.pkt ++ [b]) { s with pkt := [] } = .next t) := by
  unfold cmdWrite at h
  split at h
  · rename_i hb
    split at h
    · rename_i hf; cases h; exact .inl ⟨hb, hf, rfl⟩
    · cases h
  · rename_i hb
    split at h
    · rename_i hp; exact .inr (.inr ⟨by simpa using hb, hp, h⟩)
    · rename_i hp; cases h; exact .inr (.inl ⟨by simpa using hb, by simpa using hp, rfl⟩)

/-- Everything a move of the environment can do. -/
theorem environmentMove_cases {m : Input} {s t : State} (h : environmentMove m s = .next t) :
    (∃ off v, m = .write off v ∧ off ≠ 0x00 ∧ t = s) ∨
    (∃ v, m = .write 0x00 v ∧ cmdWrite (v.extractLsb' 0 8) s = .next t) ∨
    (∃ a, m = .answer a ∧ s.wait = none ∧ t = s) ∨
    (∃ a rest, m = .answer a ∧ s.wait = some rest ∧ t = resumeTx a rest s) ∨
    (m = .reset ∧ t = s.assertReset) ∨
    (∃ a b, m = .source a b ∧ t = { s with src := s.src.put a.toNat b }) := by
  cases m with
  | write off v =>
    simp only [environmentMove] at h
    split at h
    · rename_i ho; subst ho; exact .inr (.inl ⟨v, rfl, h⟩)
    · rename_i ho; cases h; exact .inl ⟨off, v, rfl, ho, rfl⟩
  | answer a =>
    simp only [environmentMove] at h
    split at h
    · rename_i hw; cases h; exact .inr (.inr (.inl ⟨a, rfl, hw, rfl⟩))
    · rename_i rest hw; cases h; exact .inr (.inr (.inr (.inl ⟨a, rest, rfl, hw, rfl⟩)))
  | reset => cases h; exact .inr (.inr (.inr (.inr (.inl ⟨rfl, rfl⟩))))
  | source a b => cases h; exact .inr (.inr (.inr (.inr (.inr ⟨a, b, rfl, rfl⟩))))

/-- A step under a legal configuration with no move pending changes nothing. -/
theorem step_idle {s : State} (hc : s.cfg.wf = true) (hi : s.inputs = []) : step s = .next s := by
  simp [step, hc, nextMove, hi]

/-- A step under a legal configuration makes the environment's next move. -/
theorem step_move {s : State} {m : Input} {ms : List Input} (hc : s.cfg.wf = true) (hi : s.inputs = m :: ms) :
    step s = environmentMove m { s with inputs := ms } := by
  simp [step, hc, nextMove, hi]

/-- A step that answers a next state has a legal configuration, and is idle or a move of the environment. -/
theorem step_cases {s t : State} (h : step s = .next t) :
    s.cfg.wf = true ∧ ((s.inputs = [] ∧ t = s) ∨
      ∃ m ms, s.inputs = m :: ms ∧ environmentMove m { s with inputs := ms } = .next t) := by
  unfold step at h
  split at h
  · rename_i hc
    refine ⟨hc, ?_⟩
    unfold nextMove at h
    split at h
    · rename_i hi; cases h; exact .inl ⟨hi, rfl⟩
    · rename_i m ms hi; exact .inr ⟨m, ms, hi, h⟩
  · cases h

end Sys2Proof.Machine
end

