-- ==== Sys2Proof/Tests/Slice0.lean ====
section
/-! SUPPORT. Tests: the well-formedness checks, the decoding of packets written out from 30_encoding.md R77
and the command rules' examples, one-step vectors from the rules and 95_test_vectors.md, and for every
statement with hypotheses a state and operands that meet them. -/

namespace Sys2Proof.Tests

set_option Elab.async false

open Sys2Proof.Machine

/-! ## Well-formedness: an ill-formed term for every check (R79) -/

theorem test_wf_accepts_colours : (Instr.fill 0).wf = true ∧ (Instr.fill 1).wf = true := by decide
theorem test_wf_fill_colour : (Instr.fill 2).wf = false := by decide
theorem test_wf_setdisp_bool : (Instr.setdisp 2).wf = false := by decide
theorem test_wf_pixel_colour : (Instr.pixel 0 0 0xFF).wf = false := by decide
theorem test_wf_line_colour : (Instr.line 0 0 1 1 2).wf = false := by decide
theorem test_wf_polyline_colour : (Instr.polyline 0 0 2).wf = false := by decide
theorem test_wf_rect_colour : (Instr.rect 0 0 1 1 2).wf = false := by decide
theorem test_wf_fillrect_colour : (Instr.fillrect 0 0 1 1 2).wf = false := by decide
theorem test_wf_circle_colour : (Instr.circle 0 0 1 2).wf = false := by decide
theorem test_wf_fillcircle_colour : (Instr.fillcircle 0 0 1 2).wf = false := by decide
theorem test_wf_arc_colour : (Instr.arc 0 0 1 0 0 2).wf = false := by decide
theorem test_wf_arcrl_colour : (Instr.arcrl 0 0 1 0 0 2).wf = false := by decide
theorem test_wf_filltri_colour : (Instr.filltri 0 0 0 0 0 0 2).wf = false := by decide
theorem test_wf_wrchar_colour : (Instr.wrchar 0x41 2).wf = false := by decide
theorem test_wf_wrstr_colour : (Instr.wrstr 0 2).wf = false := by decide
theorem test_wf_bitmap_colour : (Instr.bitmap 0 0 0 1 1 2).wf = false := by decide
theorem test_wf_font_width_zero : (Instr.setfont 0 5 0 0 0).wf = false := by decide
theorem test_wf_font_width_seventeen : (Instr.setfont 17 5 0 0 0).wf = false := by decide
theorem test_wf_font_height_zero : (Instr.setfont 3 0 0 0 0).wf = false := by decide
theorem test_wf_font_flags : (Instr.setfont 3 5 2 0 0).wf = false := by decide
theorem test_wf_font_limits : (Instr.setfont 16 255 1 0 0).wf = true ∧ (Instr.setfont 1 1 0 0 0).wf = true := by decide

/-! ## Decoding: the packets of the rules' examples, byte by byte -/

/-- R222. -/
theorem test_decode_init : decodePacket [0x01] = .ok .init := by decide
/-- R102: `FILL ON`. -/
theorem test_decode_fill : decodePacket [0x02, 0x01] = .ok (.fill 1) := by decide
/-- R104: `LOAD 0x100, 2`. -/
theorem test_decode_load : decodePacket [0x03, 0x00, 0x01, 0x00, 0x00, 0x02, 0x00] = .ok (.load 0x100 2) := by decide
/-- R231. -/
theorem test_decode_flush : decodePacket [0x04] = .ok .flush := by decide
/-- R235: `SETCONTRAST 0x7F`. -/
theorem test_decode_setcontrast : decodePacket [0x05, 0x7F] = .ok (.setcontrast 0x7F) := by decide
/-- R237: `SETDISP 0`. -/
theorem test_decode_setdisp : decodePacket [0x06, 0x00] = .ok (.setdisp 0) := by decide
/-- R239. -/
theorem test_decode_getdisp : decodePacket [0x07] = .ok .getdisp := by decide
/-- R106: `PIXEL 5, 10, ON`. -/
theorem test_decode_pixel : decodePacket [0x10, 0x05, 0x0A, 0x01] = .ok (.pixel 5 10 1) := by decide
/-- R121: `LINE 0, 0, 5, 2, ON`. -/
theorem test_decode_line : decodePacket [0x11, 0x00, 0x00, 0x05, 0x02, 0x01] = .ok (.line 0 0 5 2 1) := by decide
/-- R124: `POLYLINE 0x200, 3, ON`. -/
theorem test_decode_polyline :
    decodePacket [0x12, 0x00, 0x02, 0x00, 0x00, 0x03, 0x00, 0x01] = .ok (.polyline 0x200 3 1) := by decide
/-- R126: `RECT 2, 2, 5, 4, ON`. -/
theorem test_decode_rect : decodePacket [0x13, 0x02, 0x02, 0x05, 0x04, 0x01] = .ok (.rect 2 2 5 4 1) := by decide
/-- R140: `FILLRECT 3, 10, 1, 1, ON`. -/
theorem test_decode_fillrect : decodePacket [0x14, 0x03, 0x0A, 0x01, 0x01, 0x01] = .ok (.fillrect 3 10 1 1 1) := by decide
/-- R142: `INVRECT 0, 3, 1, 10`. -/
theorem test_decode_invrect : decodePacket [0x15, 0x00, 0x03, 0x01, 0x0A] = .ok (.invrect 0 3 1 10) := by decide
/-- R162: `CIRCLE 10, 10, 2, ON`. -/
theorem test_decode_circle : decodePacket [0x16, 0x0A, 0x0A, 0x02, 0x01] = .ok (.circle 10 10 2 1) := by decide
/-- R164: `FILLCIRCLE 10, 10, 1, ON`. -/
theorem test_decode_fillcircle : decodePacket [0x17, 0x0A, 0x0A, 0x01, 0x01] = .ok (.fillcircle 10 10 1 1) := by decide
/-- R174: `ARC 20, 20, 10, 0, 90, ON`. -/
theorem test_decode_arc :
    decodePacket [0x18, 0x14, 0x14, 0x0A, 0x00, 0x00, 0x5A, 0x00, 0x01] = .ok (.arc 20 20 10 0 90 1) := by decide
/-- R175: `ARCRL 20, 20, 3, 30, 5, ON`. -/
theorem test_decode_arcrl :
    decodePacket [0x19, 0x14, 0x14, 0x03, 0x1E, 0x00, 0x05, 0x00, 0x01] = .ok (.arcrl 20 20 3 30 5 1) := by decide
/-- R148: `FILLTRI 0, 0, 6, 0, 3, 3, ON`. -/
theorem test_decode_filltri :
    decodePacket [0x1A, 0x00, 0x00, 0x06, 0x00, 0x03, 0x03, 0x01] = .ok (.filltri 0 0 6 0 3 3 1) := by decide
/-- 95_test_vectors.md P3: `SETFONT 3, 5, 1, 0x1000, 0x3000`. -/
theorem test_decode_setfont :
    decodePacket [0x20, 0x03, 0x05, 0x01, 0x00, 0x10, 0x00, 0x00, 0x00, 0x30, 0x00, 0x00] = .ok (.setfont 3 5 1 0x1000 0x3000) := by
  decide
/-- R194: `SETCURSOR 300, 0`. -/
theorem test_decode_setcursor : decodePacket [0x21, 0x2C, 0x01, 0x00, 0x00] = .ok (.setcursor 300 0) := by decide
/-- R201: `WRCHAR 'A', ON`. -/
theorem test_decode_wrchar : decodePacket [0x22, 0x41, 0x01] = .ok (.wrchar 0x41 1) := by decide
/-- R204: `WRSTR 0x2000, ON`. -/
theorem test_decode_wrstr : decodePacket [0x23, 0x00, 0x20, 0x00, 0x00, 0x01] = .ok (.wrstr 0x2000 1) := by decide
/-- R210: `BITMAP 0, 0, 0x300, 3, 3, ON`. -/
theorem test_decode_bitmap :
    decodePacket [0x28, 0x00, 0x00, 0x00, 0x03, 0x00, 0x00, 0x03, 0x03, 0x01] = .ok (.bitmap 0 0 0x300 3 3 1) := by decide
/-- R74: the third and fourth byte of a `u32` are its bits 16 to 31. -/
theorem test_decode_wide_address : decodePacket [0x23, 0x78, 0x56, 0x34, 0x12, 0x00] = .ok (.wrstr 0x12345678 0) := by decide
/-- R78: a reserved byte is rejected by name. -/
theorem test_decode_reserved : decodePacket [0x08] = .error (.reserved 0x08) ∧ decodePacket [0xFF] = .error (.reserved 0xFF) := by
  decide
/-- R71: a packet of another length is rejected by name. -/
theorem test_decode_short : decodePacket [0x10, 0x05, 0x0A] = .error (.wrongLength 0x10) := by decide
/-- R73: `FF 10 05 05 01` is the reserved byte, then PIXEL. -/
theorem test_decode_stream : decode [0x10, 0x05, 0x05, 0x01, 0x07] = .ok (.pixel 5 5 1, [0x07]) := by decide
/-- The opcode table's numbering: byte 0 is bits 7 to 0; operand bits that the table gives no room are 0. -/
theorem test_decode_table_word : decodeTableWord 16 0x0102 = some (.fill 1) ∧ decodeTableWord 8 0x10 = some (.pixel 0 0 0) := by
  decide

/-! ## One-step vectors -/

/-- State S0 of 95_test_vectors.md section 0, under any configuration, with the given source memory. -/
def S0 (cfg : Config) (src : Memory) : State :=
  { State.resetWith cfg src [] [] 0 with session := .ready, fb := List.replicate cfg.bufSize 0x00 }

/-- Source memory that holds the bytes from address `a` up. -/
def srcAt (a : Nat) (bs : List Byte) : Memory := bs.zipIdx.map fun b => (a + b.2, b.1)

/-- S0 with the default 128 by 64 panel. -/
def D (src : Memory) : State := S0 Config.default src

/-- The framebuffer bytes that are not `0x00`, with their indices. -/
def litBytes (fb : List Byte) : List (Nat × Byte) := (fb.zipIdx.filter fun b => b.1 != 0).map fun b => (b.2, b.1)

/-- LAST, RESULT, BUSY and the framebuffer's lit bytes after a command. -/
def after (o : Machine.Outcome) : Option (Status × Byte × Bool × List (Nat × Byte)) :=
  match o with
  | .next t => some (t.last, t.result, t.busy, litBytes t.fb)
  | _ => none

/-- What `f` reads from the state after a command. -/
def seen {α : Type} (f : State → α) (o : Machine.Outcome) : Option α :=
  match o with
  | .next t => some (f t)
  | _ => none

/-- A command that completed OK with RESULT 0 and left these bytes lit. -/
def lit (l : List (Nat × Byte)) : Option (Status × Byte × Bool × List (Nat × Byte)) := some (.ok, 0, false, l)

/-- R102, on a 4 by 8 panel. -/
theorem test_fill : after (exec (.fill 1) (S0 (Config.paged 4 8 0) [])) = lit [(0, 0xFF), (1, 0xFF), (2, 0xFF), (3, 0xFF)] := by
  decide +kernel
/-- R104's example. -/
theorem test_load : after (exec (.load 0x100 2) (D (srcAt 0x100 [0x81, 0x42]))) = lit [(0, 0x81), (1, 0x42)] := by decide +kernel
/-- 95_test_vectors.md 2.2: no wrap past the top of the source space. -/
theorem test_load_top : seen (fun t => (statusWord t, t.faultInfo)) (exec (.load 0xFFFFFFFF 2) (D [(0xFFFFFFFF, 1)])) =
    some (0x00000805, some (.src 0x100000000)) := by decide +kernel
/-- R106's example. -/
theorem test_pixel : after (exec (.pixel 5 10 1) (D [])) = lit [(133, 0x04)] := by decide +kernel
/-- R106: an out-of-bounds point. -/
theorem test_pixel_out : after (exec (.pixel 128 0 1) (D [])) = lit [] := by decide +kernel
/-- R121's example. -/
theorem test_line : after (exec (.line 0 0 5 2 1) (D [])) =
    lit [(0, 0x01), (1, 0x01), (2, 0x02), (3, 0x02), (4, 0x04), (5, 0x04)] := by decide +kernel
/-- R122 (e): `LINE 1,2,0,0` paints {(0,0), (1,1), (1,2)}. -/
theorem test_line_back : after (exec (.line 1 2 0 0 1) (D [])) = lit [(0, 0x01), (1, 0x06)] := by decide +kernel
/-- R124's example. -/
theorem test_polyline : after (exec (.polyline 0x200 3 1) (D (srcAt 0x200 [0, 0, 4, 0, 4, 3]))) =
    lit [(0, 0x01), (1, 0x01), (2, 0x01), (3, 0x01), (4, 0x0F)] := by decide +kernel
/-- R126's example: 10 points. -/
theorem test_rect : after (exec (.rect 2 2 5 4 1) (D [])) = lit [(2, 0x1C), (3, 0x14), (4, 0x14), (5, 0x1C)] := by decide +kernel
/-- R140's example. -/
theorem test_fillrect : after (exec (.fillrect 3 10 1 1 1) (D [])) =
    lit [(1, 0xFE), (2, 0xFE), (3, 0xFE), (129, 0x07), (130, 0x07), (131, 0x07)] := by decide +kernel
/-- R142's example. -/
theorem test_invrect : after (exec (.invrect 0 3 1 10) (D [])) =
    lit [(0, 0xF8), (1, 0xF8), (128, 0x07), (129, 0x07)] := by decide +kernel
/-- 95_test_vectors.md 2.4: `x1 > x2`. -/
theorem test_invrect_range : after (exec (.invrect 5 0 4 0) (D [])) = some (.rangeError, 0, false, []) := by decide +kernel
/-- 95_test_vectors.md 2.5: negative points are discarded. -/
theorem test_circle : after (exec (.circle 0 0 2 1) (D [])) = lit [(0, 0x04), (1, 0x04), (2, 0x03)] := by decide +kernel
/-- R164's example, moved to (1, 1). -/
theorem test_fillcircle : after (exec (.fillcircle 1 1 1 1) (D [])) = lit [(0, 0x02), (1, 0x07), (2, 0x02)] := by decide +kernel
/-- 95_test_vectors.md 2.5: no chord for a sweep of 4 degrees, and one point for radius 0. -/
theorem test_arc : after (exec (.arc 20 20 10 10 4 1) (D [])) = lit [] ∧
    after (exec (.arc 20 20 0 0 90 1) (D [])) = lit [(276, 0x10)] := ⟨by decide +kernel, by decide +kernel⟩
/-- R174's samples of `ARC 20, 20, 10, 0, 90`. -/
theorem test_arc_samples : (List.range 10).map (samplePoint 20 20 10 360 90) =
    [⟨20, 30⟩, ⟨22, 30⟩, ⟨23, 29⟩, ⟨25, 29⟩, ⟨26, 28⟩, ⟨28, 26⟩, ⟨29, 25⟩, ⟨29, 23⟩, ⟨30, 22⟩, ⟨30, 20⟩] := by decide +kernel
/-- R175's example: (20,20), (21,21), (21,22), (22,22), (22,23). -/
theorem test_arcrl : after (exec (.arcrl 20 20 3 30 5 1) (D [])) = lit [(276, 0x10), (277, 0x60), (278, 0xC0)] := by decide +kernel
/-- R148's example: row 0 x 0..6, row 1 x 1..5, row 2 x 2..4, row 3 x 3. -/
theorem test_filltri : after (exec (.filltri 0 0 6 0 3 3 1) (D [])) =
    lit [(0, 0x01), (1, 0x03), (2, 0x07), (3, 0x0F), (4, 0x07), (5, 0x03), (6, 0x01)] := by decide +kernel
/-- 95_test_vectors.md 2.4, third FILLTRI: rows 0 to 5 have x 0; 0..4; 1..7; 1..5; 2..4; 2. -/
theorem test_filltri_slant : after (exec (.filltri 0 0 7 2 2 5 1) (D [])) =
    lit [(0, 0x03), (1, 0x0E), (2, 0x3E), (3, 0x1E), (4, 0x1E), (5, 0x0C), (6, 0x04), (7, 0x04)] := by decide +kernel
/-- R190's example. -/
theorem test_setfont : seen (fun t => (t.fontValid, t.fontW, t.fontH, t.fontCwen, t.fontData, t.fontCw))
    (exec (.setfont 3 5 0 0x1000 0) (D [])) = some (true, 3, 5, false, 0x1000, 0) := by decide +kernel
/-- R194's example. -/
theorem test_setcursor : seen (fun t => (t.curx, t.cury)) (exec (.setcursor 10 20) (D [])) = some (10, 20) := by decide +kernel

/-- S0 with font F35 of 95_test_vectors.md and the string `"A"` at `0x2000`, cursor at `(x, 0)`. -/
def F35 (x : Half) : State :=
  { D (srcAt 0x114A [0x00, 0x40, 0x00, 0xA0, 0x00, 0xE0, 0x00, 0xA0, 0x00, 0xA0] ++ srcAt 0x2000 [0x41, 0x00]) with
    fontValid := true, fontW := 3, fontH := 5, fontData := 0x1000, curx := x }

/-- R201's example. -/
theorem test_wrchar : after (exec (.wrchar 0x41 1) (F35 0)) = some (.ok, 0x41, false, [(0, 0x1E), (1, 0x05), (2, 0x1E)]) ∧
    seen (fun t => (t.curx, t.cury)) (exec (.wrchar 0x41 1) (F35 0)) = some (3, 0) := by decide +kernel
/-- 95_test_vectors.md 2.6: the right edge, and one column too far. -/
theorem test_wrchar_edge :
    after (exec (.wrchar 0x41 1) (F35 125)) = some (.ok, 0x41, false, [(125, 0x1E), (126, 0x05), (127, 0x1E)]) ∧
    after (exec (.wrchar 0x41 1) (F35 126)) = some (.rangeError, 0, false, []) := ⟨by decide +kernel, by decide +kernel⟩
/-- 95_test_vectors.md E6. -/
theorem test_wrstr : after (exec (.wrstr 0x2000 1) (F35 0)) = lit [(0, 0x1E), (1, 0x05), (2, 0x1E)] ∧
    after (exec (.wrstr 0x2000 1) (F35 126)) = some (.rangeError, 0x41, false, []) := ⟨by decide +kernel, by decide +kernel⟩
/-- R210's example. -/
theorem test_bitmap : after (exec (.bitmap 0 0 0x300 3 3 1) (D (srcAt 0x300 [0x80, 0x40, 0xFF]))) =
    lit [(0, 0x05), (1, 0x06), (2, 0x04)] := by decide +kernel
/-- 95_test_vectors.md 2.6: two bytes a row. -/
theorem test_bitmap_wide : after (exec (.bitmap 0 0 0x300 9 2 1) (D (srcAt 0x300 [0xFF, 0x80, 0x01, 0xFF]))) =
    lit [(0, 0x01), (1, 0x01), (2, 0x01), (3, 0x01), (4, 0x01), (5, 0x01), (6, 0x01), (7, 0x03), (8, 0x03)] := by decide +kernel

/-- A transport that has `n` OK answers ready, then an ERR. -/
def okThenErr (n : Nat) (s : State) : State := { s with answers := List.replicate n .ok ++ [.err] }

/-- 95_test_vectors.md 2.7, transaction 2 answered ERR: the trace is `Cmd AE`, `Cmd 20`. -/
theorem test_init_error : seen (fun t => (t.last, t.session, t.trace)) (exec .init (okThenErr 1 State.reset)) =
    some (.transportError, .uninitialized, [.cmd 0xAE, .cmd 0x20]) := by decide +kernel
/-- R222's example: 23 + 8 * 4 transactions, then `Ready`. -/
theorem test_init : seen (fun t => (t.last, t.session, t.trace.length, t.dispon, t.contrast))
    (exec .init (okThenErr 55 State.reset)) = some (.ok, .ready, 55, true, 0xFF) := by decide +kernel
/-- R231's example, on a 2 by 16 panel: `PIXEL 0, 9` is bit 1 of page 1. -/
theorem test_flush :
    seen (fun t => t.trace) (exec .flush (okThenErr 8 { S0 (Config.paged 2 16 0) [] with fb := [0, 0, 2, 0] })) =
    some [.cmd 0xB0, .cmd 0x00, .cmd 0x10, .data [0, 0], .cmd 0xB1, .cmd 0x00, .cmd 0x10, .data [2, 0]] := by decide +kernel
/-- R235's example. -/
theorem test_setcontrast : seen (fun t => (t.trace, t.contrast, t.last)) (exec (.setcontrast 0x7F) (okThenErr 2 (D []))) =
    some ([.cmd 0x81, .cmd 0x7F], 0x7F, .ok) := by decide +kernel
/-- R235: an ERR on the first byte. -/
theorem test_setcontrast_error : seen (fun t => (t.trace, t.contrast, t.last)) (exec (.setcontrast 0x7F) (okThenErr 0 (D []))) =
    some ([.cmd 0x81], 0x00, .transportError) := by decide +kernel
/-- R237's example. -/
theorem test_setdisp : seen (fun t => (t.trace, t.dispon, t.last)) (exec (.setdisp 0) (okThenErr 1 { D [] with dispon := true })) =
    some ([.cmd 0xAE], false, .ok) := by decide +kernel
/-- R239. -/
theorem test_getdisp : seen (fun t => (t.result, t.last)) (exec .getdisp { D [] with dispon := true }) = some (1, .ok) := by
  decide +kernel
/-- 95_test_vectors.md P5: PIXEL from reset. -/
theorem test_preinit_status : seen (fun t => (statusWord t, t.last, t.result, t.trace))
    (step (State.reset.withFetchWord 32 0x01050510)) = some (0x00000401, .ok, 0, []) := by decide +kernel
/-- 95_test_vectors.md 2.1: the illegal colour comes before the pre-init test. -/
theorem test_illegal_before_preinit : seen (fun t => (t.last, t.busy, t.faultPreInit))
    (step (State.reset.withFetchWord 32 0x02050510)) = some (.illegal, false, false) := by decide +kernel
/-- R284: a late ERR ends a waiting SETDISP with TRANSPORT_ERROR, a late OK completes it. -/
theorem test_late_answers :
    let s := { D [] with busy := true, wait := some [.setDispon true] }
    (seen (fun t => (t.last, t.busy, t.dispon)) (step { s with inputs := [.answer .err] }) = some (.transportError, false, false)) ∧
    (seen (fun t => (t.last, t.busy, t.dispon)) (step { s with inputs := [.answer .ok] }) = some (.ok, false, true)) :=
  ⟨by decide +kernel, by decide +kernel⟩
/-- R264: a faulted block ignores the next packet byte (95_test_vectors.md P5). -/
theorem test_faulted_ignores : seen (fun t => (t.pkt, statusWord t))
    (step { State.reset with busy := true, faultPreInit := true, inputs := [writeByte 0x01] }) = some ([], 0x00000401) := by
  decide +kernel
/-- R286 (a): a CMD write while a command waits is the model's named fault. -/
theorem test_overrun_stops :
    step { State.reset with busy := true, wait := some [], inputs := [writeByte 0x01] } = .fault .cmdWriteWhileBusy := rfl
/-- R6: a height that is no multiple of 8 is no configuration. -/
theorem test_illegal_config : step { State.reset with cfg := Config.paged 128 60 0 } = .refused .illegalConfig := rfl

/-! ## Witnesses: states and operands that meet the statements' hypotheses -/

/-- An 8 by 8 panel: 8 framebuffer bytes, 4 transactions a flush. -/
def tiny : Config := Config.paged 8 8 0

/-- S0 on the 8 by 8 panel. -/
def W (src : Memory) : State := S0 tiny src

theorem tiny_wf : tiny.wf = true := by decide +kernel

theorem W_fbSize : (List.replicate tiny.bufSize (0x00 : Byte)).length = tiny.bufSize := by decide +kernel

theorem W_canRun (src : Memory) : (W src).CanRun := ⟨tiny_wf, W_fbSize, rfl⟩

theorem W_portOpen (src : Memory) : (W src).PortOpen := ⟨tiny_wf, rfl⟩

/-- EncodeOfDecodeIsThePacket. -/
theorem witness_EncodeOfDecode : ∃ p i, decodePacket p = .ok i := ⟨[0x01], .init, rfl⟩

/-- PacketDecodesExactlyAtItsLength: a reserved opcode, and an assigned one with too few and too many bytes. -/
theorem witness_PacketDecodesExactly :
    reservedOpcode 0x00 = true ∧ reservedOpcode 0xFF = true ∧ reservedOpcode 0x02 = false ∧
    ([] : List Byte).length + 1 ≠ packetLen 0x02 ∧ ([0x01, 0x01] : List Byte).length + 1 ≠ packetLen 0x02 := by decide

/-- StepRunsTheDecodedCommand. -/
theorem witness_StepRuns : ∃ (s : State) (v : Word) (ms : List Input) (i : Instr),
    s.PortOpen ∧ s.inputs = .write 0 v :: ms ∧ decodePacket (s.pkt ++ [v.extractLsb' 0 8]) = .ok i :=
  ⟨{ W [] with pkt := [0x02], inputs := [.write 0 0xFFFFFF01] }, 0xFFFFFF01, [], .fill 1, ⟨tiny_wf, rfl⟩, rfl, rfl⟩

/-- UnfinishedPacketWaitsForMoreBytes. -/
theorem witness_UnfinishedPacket : ∃ (s : State) (v : Word) (ms : List Input) (op : Byte) (ops : List Byte),
    s.PortOpen ∧ s.inputs = .write 0 v :: ms ∧ s.pkt ++ [v.extractLsb' 0 8] = op :: ops ∧ (op :: ops).length < packetLen op :=
  ⟨{ W [] with inputs := [.write 0 0x02] }, 0x02, [], 0x02, [], ⟨tiny_wf, rfl⟩, rfl, by decide, by decide⟩

/-- WrittenPacketRunsTheCommand, and the second clause of ReservedByteCompletesIllegal. -/
theorem witness_PortOpen : ∃ s : State, s.PortOpen ∧ s.pkt = [] := ⟨W [], W_portOpen [], rfl⟩

/-- RegisterWindowReadsAndWrites: a write to STATUS and to the first reserved offset; a byte that does not complete
a packet, and one that does. -/
theorem witness_RegisterWindow :
    (∃ (s : State) (v : Word) (ms : List Input), s.cfg.wf = true ∧ s.inputs = .write 0x04 v :: ms) ∧
    (∃ (s : State) (v : Word) (ms : List Input), s.cfg.wf = true ∧ s.inputs = .write 0x0C v :: ms ∧ 0x0C ≤ 0x0C) ∧
    (∃ s : State, s.PortOpen ∧ packetComplete (s.pkt ++ [0x02]) = false) ∧
    (∃ s : State, s.PortOpen ∧ packetComplete (s.pkt ++ [0x07]) = true) :=
  ⟨⟨{ W [] with inputs := [.write 0x04 0] }, 0, [], tiny_wf, rfl⟩,
    ⟨{ W [] with inputs := [.write 0x0C 0] }, 0, [], tiny_wf, rfl, Nat.le_refl _⟩, ⟨W [], W_portOpen [], rfl⟩, W [], W_portOpen [], rfl⟩

/-- A block that waits in a FLUSH for the answer to its first transaction. -/
def waiting (ms : List Input) : State :=
  { W [] with busy := true, wait := some ((flushOps tiny).drop 1), trace := [.cmd 0xB0], inputs := ms }

/-- A block that a PreInitFault has stopped. -/
def stopped (ms : List Input) : State :=
  { W [] with session := .uninitialized, busy := true, faultPreInit := true, faultInfo := some (.preInit 0x10), inputs := ms }

theorem waiting_inv (ms : List Input) : (waiting ms).Inv where
  cfgLegal := tiny_wf
  fbSize := W_fbSize
  srcCanonical := ⟨List.Pairwise.nil, nofun⟩
  fontLegal := nofun
  fontReset := fun _ => ⟨rfl, rfl, rfl, rfl, rfl⟩
  pktPartial := rfl
  busyPkt := fun _ => rfl
  busyWhy := rfl
  waitNotFaulted := fun _ => rfl
  waitAnswers := fun _ => rfl
  waitSession := fun _ => nofun
  initializing := nofun
  preInitRecord := ⟨nofun, nofun⟩
  srcRecord := ⟨nofun, nofun⟩

theorem stopped_inv (ms : List Input) : (stopped ms).Inv where
  cfgLegal := tiny_wf
  fbSize := W_fbSize
  srcCanonical := ⟨List.Pairwise.nil, nofun⟩
  fontLegal := nofun
  fontReset := fun _ => ⟨rfl, rfl, rfl, rfl, rfl⟩
  pktPartial := rfl
  busyPkt := fun _ => rfl
  busyWhy := rfl
  waitNotFaulted := nofun
  waitAnswers := nofun
  waitSession := nofun
  initializing := nofun
  preInitRecord := ⟨fun _ => ⟨0x10, rfl⟩, fun _ => rfl⟩
  srcRecord := ⟨nofun, nofun⟩

/-- ResetLeavesTheListedValues and HostResetReturnsToTheResetState, from a block that waits and from one that has faulted. -/
theorem witness_HostReset : (waiting [.reset]).cfg.wf = true ∧ (waiting [.reset]).inputs = .reset :: [] ∧
    (stopped [.reset]).cfg.wf = true ∧ (stopped [.reset]).inputs = .reset :: [] := ⟨tiny_wf, rfl, tiny_wf, rfl⟩

/-- IllegalOperandsCompleteIllegal. -/
theorem witness_IllegalOperands : (Instr.pixel 0 0 2).wf = false := rfl

/-- CommandBeforeReadyIsPreInitFault: in both session states that are not `Ready`. -/
theorem witness_PreInit : Instr.fill 1 ≠ .init ∧ (Instr.fill 1).wf = true ∧ State.reset.session ≠ .ready ∧
    ({ State.reset with session := .initializing } : State).session ≠ .ready := ⟨nofun, rfl, nofun, nofun⟩

/-- FaultedBlockStaysStopped: a CMD write, an answer, a change of source memory, and no move. -/
theorem witness_FaultedBlock :
    ((stopped [writeByte 0x01]).Inv ∧ (stopped [writeByte 0x01]).faulted = true ∧
      (stopped [writeByte 0x01]).inputs = .write 0x00 0x01 :: []) ∧
    ((stopped [.answer .ok]).Inv ∧ (stopped [.answer .ok]).faulted = true ∧ (stopped [.answer .ok]).inputs = .answer .ok :: []) ∧
    ((stopped [.source 0 none]).Inv ∧ (stopped [.source 0 none]).faulted = true ∧
      (stopped [.source 0 none]).inputs = .source 0 none :: []) ∧
    (stopped []).Inv ∧ (stopped []).faulted = true ∧ (stopped []).inputs = [] :=
  ⟨⟨stopped_inv _, rfl, rfl⟩, ⟨stopped_inv _, rfl, rfl⟩, ⟨stopped_inv _, rfl, rfl⟩, stopped_inv _, rfl, rfl⟩

/-- SrcFaultNamesAnUnadmittedAddress: a command that faults; the first address that never exists; the last address
made readable, and made unreadable; two readable bytes, and two of which the second is not. -/
theorem witness_SrcFault :
    (∃ s t : State, exec (.load 0 1) s = .next t ∧ s.faultSrc = false ∧ t.faultSrc = true) ∧ 2 ^ 32 ≤ 2 ^ 32 ∧
    (∃ (s : State) (ms : List Input), s.cfg.wf = true ∧ Memory.wf s.src ∧ s.inputs = .source 0xFFFFFFFF (some 1) :: ms) ∧
    (∃ (s : State) (ms : List Input), s.cfg.wf = true ∧ Memory.wf s.src ∧ s.inputs = .source 0xFFFFFFFF none :: ms) ∧
    (∃ f : Nat → Byte, ∀ i < 2, srcRead (srcAt 0x100 [0x34, 0x12]) (0x100 + i) = .ok (f i)) ∧
    FirstUnreadable (srcAt 0xFFFFFFFF [1]) 0xFFFFFFFF 2 1 :=
  ⟨⟨W [], _, rfl, rfl, by decide +kernel⟩, Nat.le_refl _,
    ⟨{ W [] with inputs := [.source 0xFFFFFFFF (some 1)] }, [], tiny_wf, ⟨List.Pairwise.nil, nofun⟩, rfl⟩,
    ⟨{ W [(0xFFFFFFFF, 1)] with inputs := [.source 0xFFFFFFFF none] }, [], tiny_wf, by decide +kernel, rfl⟩,
    ⟨fun i => if i = 0 then 0x34 else 0x12, by decide +kernel⟩,
    ⟨by decide, fun j hj => ⟨1, by obtain rfl : j = 0 := Nat.lt_one_iff.mp hj; rfl⟩, nofun⟩⟩

/-- EveryStepKeepsTheInvariant: a step of a block that waits. -/
theorem witness_InvStep : ∃ s t : State, s.Inv ∧ step s = .next t :=
  ⟨waiting [.answer .ok], _, waiting_inv _, by simp only [step, if_pos (show (waiting [.answer .ok]).cfg.wf = true from tiny_wf)]; rfl⟩

/-- ResetHasTheInvariant: the smallest and the largest panel, and source memory with its last byte readable. -/
theorem witness_ResetInv : (Config.paged 1 8 0).wf = true ∧ (Config.paged 256 256 0).wf = true ∧
    Memory.wf [(0, 0x00), (2 ^ 32 - 1, 0x01)] := by decide +kernel

/-- CommandsKeepToTheirPorts, RegistersChangeOnlyByTheirWriters, FaultBitsStickAndResultsWaitForCompletion. -/
theorem witness_Exec : ∃ s t : State, s.fb.length = s.cfg.bufSize ∧ exec .getdisp s = .next t :=
  ⟨W [], _, (W_canRun []).fbSize, rfl⟩

/-- FaultBitsStickAndResultsWaitForCompletion: fault bits that are set, and a command that does not complete. -/
theorem witness_FaultBits :
    (∃ s t : State, exec .getdisp s = .next t ∧ s.faultPreInit = true ∧ s.faultSrc = true) ∧
    (∃ s t : State, exec .flush s = .next t ∧ t.busy = true) :=
  ⟨⟨{ W [] with faultPreInit := true, faultSrc := true }, _, rfl, rfl, rfl⟩, W [], _, rfl, by decide +kernel⟩

/-- StatusCodesHaveTheListedCauses: each code other than OK, by each command or kind of command that gives it. -/
theorem witness_StatusCodes :
    (∃ s t : State, exec (.load 0 9) s = .next t ∧ t.busy = false ∧ t.last = .sizeError) ∧
    (∃ s t : State, exec (.invrect 1 0 0 0) s = .next t ∧ t.busy = false ∧ t.last = .rangeError) ∧
    (∃ s t : State, exec (.wrchar 32 1) s = .next t ∧ t.busy = false ∧ t.last = .rangeError) ∧
    (∃ s t : State, exec (.wrstr 0x10 1) s = .next t ∧ t.busy = false ∧ t.last = .rangeError) ∧
    (∃ s t : State, exec (.wrchar 31 1) s = .next t ∧ t.busy = false ∧ t.last = .unsupportedGlyph) ∧
    (∃ s t : State, exec (.wrstr 0x10 1) s = .next t ∧ t.busy = false ∧ t.last = .unsupportedGlyph) ∧
    (∃ s t : State, exec (.setdisp 1) s = .next t ∧ t.busy = false ∧ t.last = .transportError) ∧
    (∃ s t : State, exec (.wrchar 0x41 1) s = .next t ∧ t.busy = false ∧ t.last = .illegal) :=
  ⟨⟨W [], _, rfl, by decide +kernel, by decide +kernel⟩, ⟨W [], _, rfl, by decide +kernel, by decide +kernel⟩,
    ⟨{ W [] with fontValid := true, fontW := 9, fontH := 1 }, _, rfl, by decide +kernel, by decide +kernel⟩,
    ⟨{ W [(0x10, 126)] with fontValid := true, fontW := 9, fontH := 1 }, _, rfl, by decide +kernel, by decide +kernel⟩,
    ⟨{ W [] with fontValid := true }, _, rfl, by decide +kernel, by decide +kernel⟩,
    ⟨{ W [(0x10, 127)] with fontValid := true }, _, rfl, by decide +kernel, by decide +kernel⟩,
    ⟨{ W [] with answers := [.err] }, _, rfl, by decide +kernel, by decide +kernel⟩,
    W [], _, rfl, by decide +kernel, by decide +kernel⟩

/-- FramebufferBeforeInitIsUnobserved: an INIT that succeeds, with another framebuffer. -/
theorem witness_FbBeforeInit : ∃ (s t : State) (fb : List Byte),
    s.session ≠ .ready ∧ s.fb.length = fb.length ∧ fb ≠ s.fb ∧ exec .init s = .next t ∧ t.session = .ready :=
  ⟨{ W [] with session := .uninitialized, answers := List.replicate 27 .ok }, _, List.replicate 8 0xFF,
    nofun, by decide +kernel, by decide +kernel, rfl, by decide +kernel⟩

/-- PlotObeysItsLaws: corners of the panel, and points one step outside it on each side. -/
theorem witness_Plot : tiny.wf = true ∧ (W []).fb.length = tiny.bufSize ∧ (⟨0, 0⟩ : Point) ≠ ⟨7, 7⟩ ∧
    inBounds tiny ⟨0, 0⟩ = true ∧ inBounds tiny ⟨7, 7⟩ = true ∧ inBounds tiny ⟨8, 0⟩ = false ∧ inBounds tiny ⟨0, 8⟩ = false ∧
    inBounds tiny ⟨-1, 0⟩ = false ∧ inBounds tiny ⟨0, -1⟩ = false := by decide +kernel

/-- FillSetsEveryByte, PixelSetsOnePixel, LinePaintsItsPoints, RectPaintsTheOutline, FillRectPaintsTheRectangle,
FillTriPaintsItsPoints, CirclesPaintTheirPoints, ArcPaintsItsChords, ArcRadiusLinesPaintOutward. -/
theorem witness_Drawing : (W []).CanRun ∧ (Instr.fill 0).wf = true ∧ (Instr.fill 1).wf = true ∧ (Instr.pixel 8 0 0).wf = true ∧
    (Instr.line 0 0 255 255 1).wf = true ∧ (Instr.rect 7 7 0 0 1).wf = true ∧ (Instr.fillrect 7 7 0 0 1).wf = true ∧
    (Instr.filltri 0 0 0 0 255 255 1).wf = true ∧ (Instr.circle 7 7 255 1).wf = true ∧ (Instr.fillcircle 8 0 0 1).wf = true ∧
    (Instr.arc 0 0 255 65535 5 1).wf = true ∧ (Instr.arcrl 0 0 255 0 4 1).wf = true :=
  ⟨W_canRun [], by decide⟩

/-- LoadCopiesTheImage: one byte too many; the whole buffer readable; the first, and the last byte unreadable. -/
theorem witness_Load :
    (W []).CanRun ∧ (W []).cfg.bufSize < (9 : Half).toNat ∧ (8 : Half).toNat ≤ (W []).cfg.bufSize ∧
    (∃ img : Nat → Byte, ∀ k < (2 : Half).toNat, srcRead (W (srcAt 0x100 [1, 2])).src ((0x100 : Word).toNat + k) = .ok (img k)) ∧
    FirstUnreadable (W []).src (0x100 : Word).toNat (2 : Half).toNat 0 ∧
    FirstUnreadable (W (srcAt 0x100 [1])).src (0x100 : Word).toNat (2 : Half).toNat 1 :=
  ⟨W_canRun [], by decide +kernel, by decide +kernel, ⟨fun k => if k = 0 then 1 else 2, by decide +kernel⟩,
    ⟨by decide, nofun, nofun⟩,
    ⟨by decide, fun j hj => ⟨1, by obtain rfl : j = 0 := Nat.lt_one_iff.mp hj; rfl⟩, nofun⟩⟩

/-- PolylinePaintsItsSegments: null, one vertex, two readable vertices, an unreadable last byte. -/
theorem witness_Polyline :
    (W []).CanRun ∧ (Instr.polyline 0 2 1).wf = true ∧ (1 : Half).toNat < 2 ∧ (0x100 : Word) ≠ 0 ∧ 2 ≤ (2 : Half).toNat ∧
    (∃ vx vy : Nat → Byte, ∀ k < (2 : Half).toNat,
      srcRead (W (srcAt 0x100 [1, 2, 3, 4])).src ((0x100 : Word).toNat + 2 * k) = .ok (vx k) ∧
      srcRead (W (srcAt 0x100 [1, 2, 3, 4])).src ((0x100 : Word).toNat + 2 * k + 1) = .ok (vy k)) ∧
    FirstUnreadable (W (srcAt 0x100 [1, 2, 3])).src (0x100 : Word).toNat (2 * (2 : Half).toNat) 3 :=
  ⟨W_canRun [], by decide, by decide, by decide, by decide,
    ⟨fun k => if k = 0 then 1 else 3, fun k => if k = 0 then 2 else 4, by decide +kernel⟩,
    ⟨by decide, fun j hj => (by decide +kernel : ∀ j < 3, ∃ b, srcRead (W (srcAt 0x100 [1, 2, 3])).src (0x100 + j) = .ok b) j hj, nofun⟩⟩

/-- InvRectFlipsTheRectangle: each way to be out of range, and the whole panel. -/
theorem witness_InvRect :
    (W []).CanRun ∧ (W []).cfg.width ≤ (8 : Byte).toNat ∧ (W []).cfg.height ≤ (8 : Byte).toNat ∧ (0 : Byte).toNat < (1 : Byte).toNat ∧
    (7 : Byte).toNat < (W []).cfg.width ∧ (7 : Byte).toNat < (W []).cfg.height ∧ (0 : Byte).toNat ≤ (7 : Byte).toNat :=
  ⟨W_canRun [], by decide +kernel⟩

/-- InvRectTwiceRestoresTheBuffer. -/
theorem witness_InvRectTwice : ∃ s t u : State, s.CanRun ∧ exec (.invrect 0 0 7 7) s = .next t ∧ exec (.invrect 0 0 7 7) t = .next u :=
  ⟨W [], _, _, W_canRun [], rfl, rfl⟩

/-- ByteMaskInversionEqualsPixelInversion: a rectangle over two pages. -/
theorem witness_ByteMask : ∃ (cfg : Config) (fb : List Byte), cfg.wf = true ∧ fb.length = cfg.bufSize ∧ invRange cfg 0 3 1 10 = true :=
  ⟨Config.paged 8 16 0, List.replicate 16 0, by decide +kernel⟩

/-- RDivRoundsToNearestAwayFromZero: a tie above and below zero; a flat edge and the least rising one. -/
theorem witness_RDiv : (0 : Int) < 2 ∧ 2 * ((1 - 2 * rdiv 1 2).natAbs : Int) = 2 ∧ 2 * ((-1 - 2 * rdiv (-1) 2).natAbs : Int) = 2 ∧
    (⟨7, 3⟩ : Point).y = (⟨0, 3⟩ : Point).y ∧ (⟨0, 3⟩ : Point).y < (⟨7, 4⟩ : Point).y := by
  decide

/-- TriangleGivesEachRowOneSpan, span ends: vertices given bottom first, with three rows and with one. -/
theorem witness_TriangleSorted :
    ([⟨0, 0⟩, ⟨7, 2⟩, ⟨2, 5⟩] : List Point).Perm [⟨2, 5⟩, ⟨0, 0⟩, ⟨7, 2⟩] ∧ (0 : Int) ≤ 2 ∧ (2 : Int) ≤ 5 ∧ (0 : Int) < 5 ∧
    ([⟨9, 3⟩, ⟨2, 3⟩, ⟨5, 3⟩] : List Point).Perm [⟨9, 3⟩, ⟨2, 3⟩, ⟨5, 3⟩] ∧ (3 : Int) ≤ 3 := by decide

/-- TriangleGivesEachRowOneSpan: the top and the bottom row, and the rows next to them. -/
theorem witness_Triangle : let a : Point := ⟨0, 0⟩; let b : Point := ⟨7, 2⟩; let c : Point := ⟨2, 5⟩
    (min (min a.y b.y) c.y ≤ 0 ∧ 0 ≤ max (max a.y b.y) c.y) ∧ (min (min a.y b.y) c.y ≤ 5 ∧ 5 ≤ max (max a.y b.y) c.y) ∧
    (-1 < min (min a.y b.y) c.y) ∧ max (max a.y b.y) c.y < 6 := by decide

/-- FilledCircleCoversTheOutline and ArcGeometryStaysInRange: the least radius that is not 0, the least and the
greatest sweep, the sweeps on both sides of the first chord, the ends of the sine table, a rounding tie. -/
theorem witness_Ranges : (1 ≤ 1) ∧ (0 ≤ 90 ∧ 90 ≤ 90 ∧ 89 < 90) ∧ 2 * ((1 : Nat) * (8192 : Int) - 16384 * rOff 1 8192).natAbs = 16384 ∧ (1 ≤ 1 ∧ 1 ≤ 360) ∧ (1 ≤ 360 ∧ 360 ≤ 360) ∧ segCount 4 = 0 ∧ 5 ≤ 5 ∧ segCount 5 = 1 := by decide

/-- RegisterCommandsWriteTheirRegisters: the least and the greatest font. -/
theorem witness_RegisterCommands : (W []).session = .ready ∧ (Instr.setfont 1 1 0 0 0).wf = true ∧
    (Instr.setfont 16 255 1 0xFFFFFFFF 0).wf = true := by decide +kernel

/-- The 8 by 8 panel with a font of 8 by 1 glyphs whose first row word is at 0x100 and whose widths start at 0x200. -/
def T (cwen : Bool) (src : Memory) : State :=
  { W src with fontValid := true, fontW := 8, fontH := 1, fontCwen := cwen, fontData := 0x100, fontCw := 0x200 }

/-- What WriteCharDrawsTheGlyph assumes of a state, a character, the low and high bytes of its rows, and its advance. -/
def CharFits (s : State) (ch c : Byte) (lo hi : Nat → Byte) (adv : Byte) : Prop :=
  s.CanRun ∧ (Instr.wrchar ch c).wf = true ∧ s.fontValid = true ∧ s.fontW.toNat ≤ 16 ∧ 1 ≤ s.fontW.toNat ∧ 32 ≤ ch.toNat ∧
  ch.toNat ≤ 126 ∧ s.curx.toNat + s.fontW.toNat ≤ s.cfg.width ∧ s.cury.toNat + s.fontH.toNat ≤ s.cfg.height ∧
  (∀ i < s.fontH.toNat, srcRead s.src (s.fontData.toNat + 2 * ((ch.toNat - 32) * s.fontH.toNat + i)) = .ok (lo i) ∧
    srcRead s.src (s.fontData.toNat + 2 * ((ch.toNat - 32) * s.fontH.toNat + i) + 1) = .ok (hi i)) ∧
  (if s.fontCwen then srcRead s.src (s.fontCw.toNat + (ch.toNat - 32)) = .ok adv else adv = s.fontW)

/-- WriteCharDrawsTheGlyph: a space in the whole first row, its advance from the font and from the table. -/
theorem witness_WriteChar :
    CharFits (T false (srcAt 0x100 [0x34, 0x12])) 32 1 (fun _ => 0x34) (fun _ => 0x12) 8 ∧
    CharFits (T true (srcAt 0x100 [0x34, 0x12] ++ srcAt 0x200 [0xFF])) 32 1 (fun _ => 0x34) (fun _ => 0x12) 0xFF :=
  ⟨⟨⟨tiny_wf, by decide +kernel, rfl⟩, by decide +kernel⟩, ⟨⟨tiny_wf, by decide +kernel, rfl⟩, by decide +kernel⟩⟩

/-- RefusedCharChangesNothing: no font, one below and one above the printable range, one column too far. -/
theorem witness_RefusedChar : (W []).session = .ready ∧ (Instr.wrchar 31 1).wf = true ∧ (W []).fontValid = false ∧
    (T false []).fontValid = true ∧ (31 : Byte).toNat < 32 ∧ 126 < (127 : Byte).toNat ∧
    ({ T false [] with curx := 1 } : State).cfg.width < ({ T false [] with curx := 1 } : State).curx.toNat + (T false []).fontW.toNat := by
  decide +kernel

/-- What UnreadableGlyphIsSrcFault assumes of a state with font `T` and the character 32. -/
theorem T_fits (cwen : Bool) (src : Memory) : (T cwen src).CanRun ∧ (Instr.wrchar 32 1).wf = true ∧ (T cwen src).fontValid = true ∧
    32 ≤ (32 : Byte).toNat ∧ (32 : Byte).toNat ≤ 126 ∧ (T cwen src).curx.toNat + (T cwen src).fontW.toNat ≤ (T cwen src).cfg.width ∧
    (T cwen src).cury.toNat + (T cwen src).fontH.toNat ≤ (T cwen src).cfg.height :=
  ⟨⟨tiny_wf, W_fbSize, rfl⟩, rfl, rfl, by decide, by decide, Nat.le_refl 8, show 0 + 1 ≤ 8 by decide⟩

/-- UnreadableGlyphIsSrcFault: the second byte of the row, and the width-table byte. -/
theorem witness_UnreadableGlyph :
    FirstUnreadable (T true (srcAt 0x100 [0x34])).src (0x100 + 2 * ((32 - 32) * 1)) (2 * (T true []).fontH.toNat) 1 ∧
    (∀ k < 2 * (T true []).fontH.toNat, Readable (T true (srcAt 0x100 [0x34, 0x12])).src (0x100 + 2 * ((32 - 32) * 1) + k)) ∧
    (T true []).fontCwen = true ∧ ¬ Readable (T true (srcAt 0x100 [0x34, 0x12])).src ((T true []).fontCw.toNat + (32 - 32)) :=
  ⟨⟨by decide, fun j hj => ⟨0x34, by obtain rfl : j = 0 := Nat.lt_one_iff.mp hj; rfl⟩, nofun⟩,
    fun k hk => (by decide +kernel : ∀ k < 2, ∃ b, srcRead (T true (srcAt 0x100 [0x34, 0x12])).src (0x100 + k) = .ok b) k hk, rfl, nofun⟩

/-- WriteStringWritesItsCharacters: the terminator, a refused character, a character that is written, a glyph
that is not readable, the last address, an unreadable string. -/
theorem witness_WriteString :
    (W []).session = .ready ∧ (Instr.wrstr 0x10 1).wf = true ∧ (W []).fontValid = false ∧
    (∀ src, (T false src).session = .ready ∧ (T false src).fontValid = true) ∧
    srcRead (T false (srcAt 0x10 [0])).src 0x10 = .ok 0 ∧
    (∃ t, exec (.wrchar 31 1) (T false (srcAt 0x10 [31])) = .next t ∧ t.busy = false ∧ t.last ≠ .ok) ∧
    (∃ t, exec (.wrchar 32 1) (T false (srcAt 0x10 [32])) = .next t ∧ t.busy = true) ∧
    (∃ t, exec (.wrchar 32 1) (T false (srcAt 0x10 [32, 0] ++ srcAt 0x100 [0, 0])) = .next t ∧ t.busy = false ∧ t.last = .ok) ∧
    (∃ t, exec (.wrchar 32 1) (T false (srcAt 0x100 [0, 0] ++ srcAt 0xFFFFFFFF [32])) = .next t ∧ t.busy = false ∧ t.last = .ok) ∧
    (0xFFFFFFFF : Word).toNat + 1 = 2 ^ 32 ∧ ¬ Readable (T false []).src 0x10 :=
  ⟨rfl, rfl, rfl, fun _ => ⟨rfl, rfl⟩, by decide +kernel, ⟨_, rfl, by decide +kernel, by decide +kernel⟩, ⟨_, rfl, by decide +kernel⟩,
    ⟨_, rfl, by decide +kernel, by decide +kernel⟩, ⟨_, rfl, by decide +kernel, by decide +kernel⟩, by decide, nofun⟩

/-- WriteStringAdvancesOverTheText: a string of one space that fills the first row. -/
theorem witness_WriteStringAdvances :
    let s := T false (srcAt 0x10 [32, 0] ++ srcAt 0x100 [0, 0])
    let str : Nat → Byte := fun _ => 32
    let adv : Nat → Byte := fun _ => 8
    s.CanRun ∧ (Instr.wrstr 0x10 1).wf = true ∧ s.fontValid = true ∧ 1 ≤ s.fontW.toNat ∧
    (∀ k < 1, srcRead s.src (0x10 + k) = .ok (str k) ∧ 32 ≤ (str k).toNat ∧ (str k).toNat ≤ 126 ∧
      (∀ j < 2 * s.fontH.toNat, Readable s.src (s.fontData.toNat + 2 * (((str k).toNat - 32) * s.fontH.toNat) + j)) ∧
      (if s.fontCwen then srcRead s.src (s.fontCw.toNat + ((str k).toNat - 32)) = .ok (adv k) else adv k = s.fontW) ∧
      s.curx.toNat + ((List.range k).map fun j => (adv j).toNat).sum + s.fontW.toNat ≤ s.cfg.width) ∧
    srcRead s.src (0x10 + 1) = .ok 0x00#8 ∧ s.cury.toNat + s.fontH.toNat ≤ s.cfg.height := by
  refine ⟨⟨tiny_wf, by decide +kernel, rfl⟩, rfl, rfl, by decide, ?_, by decide +kernel, by decide +kernel⟩
  intro k hk
  obtain rfl : k = 0 := Nat.lt_one_iff.mp hk
  exact ⟨by decide +kernel, by decide, by decide,
    fun j hj => (by decide +kernel : ∀ j < 2, ∃ b, srcRead (T false (srcAt 0x10 [32, 0] ++ srcAt 0x100 [0, 0])).src (0x100 + j) = .ok b) j hj,
    rfl, by decide +kernel⟩

/-- StringResultIsZeroExactlyOnSuccess: a string that is written, and one that is refused. -/
theorem witness_StringResult :
    (∃ s t : State, s.session = .ready ∧ (Instr.wrstr 0x10 1).wf = true ∧ s.fontValid = true ∧ exec (.wrstr 0x10 1) s = .next t ∧ t.busy = false ∧ t.last = .ok) ∧
    (∃ s t : State, s.session = .ready ∧ (Instr.wrstr 0x10 1).wf = true ∧ s.fontValid = true ∧ exec (.wrstr 0x10 1) s = .next t ∧ t.busy = false ∧ t.last ≠ .ok) :=
  ⟨⟨T false (srcAt 0x10 [0]), _, rfl, rfl, rfl, rfl, by decide +kernel, by decide +kernel⟩,
    T false (srcAt 0x10 [31]), _, rfl, rfl, rfl, rfl, by decide +kernel, by decide +kernel⟩

/-- BitmapPaintsItsSetBits: an anchor just outside; the last pixel as anchor, two rows of two bytes readable; the
last of them unreadable. -/
theorem witness_Bitmap :
    (W []).CanRun ∧ (Instr.bitmap 8 0 0 1 1 1).wf = true ∧ (Instr.bitmap 7 7 0x100 9 2 1).wf = true ∧
    (W []).cfg.width ≤ (8 : Byte).toNat ∧ (7 : Byte).toNat < (W []).cfg.width ∧ (7 : Byte).toNat < (W []).cfg.height ∧
    (∃ bits : Nat → Byte, ∀ k < (2 : Byte).toNat * (((9 : Byte).toNat + 7) / 8),
      srcRead (W (srcAt 0x100 [0xFF, 0xFF, 0xFF, 0xFF])).src ((0x100 : Word).toNat + k) = .ok (bits k)) ∧
    FirstUnreadable (W (srcAt 0x100 [1, 2, 3])).src (0x100 : Word).toNat ((2 : Byte).toNat * (((9 : Byte).toNat + 7) / 8)) 3 :=
  ⟨W_canRun [], rfl, rfl, by decide +kernel, by decide +kernel, by decide +kernel, ⟨fun _ => 0xFF, by decide +kernel⟩,
    ⟨by decide, fun j hj => (by decide +kernel : ∀ j < 3, ∃ b, srcRead (W (srcAt 0x100 [1, 2, 3])).src (0x100 + j) = .ok b) j hj, nofun⟩⟩

/-- FlushFollowsItsAnswers: all OK; an ERR at the first and at the last transaction; no answer at all. -/
theorem witness_Flush : (W []).CanRun ∧
    (∃ (s : State) (rest : List Answer), s.CanRun ∧ s.answers = List.replicate (4 * s.cfg.pages) .ok ++ rest) ∧
    (∃ (s : State) (rest : List Answer), s.CanRun ∧ 0 < 4 * s.cfg.pages ∧ s.answers = List.replicate 0 .ok ++ .err :: rest) ∧
    (∃ (s : State) (rest : List Answer), s.CanRun ∧ 3 < 4 * s.cfg.pages ∧ s.answers = List.replicate 3 .ok ++ .err :: rest) ∧
    (∃ s : State, s.CanRun ∧ 0 < 4 * s.cfg.pages ∧ s.answers = List.replicate 0 .ok) :=
  ⟨W_canRun [], ⟨{ W [] with answers := List.replicate 4 .ok }, [], ⟨tiny_wf, by decide +kernel, rfl⟩, by decide +kernel⟩,
    ⟨{ W [] with answers := [.err] }, [], ⟨tiny_wf, by decide +kernel, rfl⟩, by decide +kernel⟩,
    ⟨{ W [] with answers := List.replicate 3 .ok ++ [.err] }, [], ⟨tiny_wf, by decide +kernel, rfl⟩, by decide +kernel⟩,
    W [], W_canRun [], by decide +kernel⟩

/-- InitMakesTheSessionReady: 23 + 4 transactions on the 8 by 8 panel, all answered; only the first sent; only the
last not answered. -/
theorem witness_Init :
    (∃ (s : State) (rest : List Answer), s.cfg.wf = true ∧
      s.answers = List.replicate (s.cfg.initSeq.flatten.length + 4 * s.cfg.pages) .ok ++ rest) ∧
    (∃ s : State, s.cfg.wf = true ∧ 0 < s.cfg.initSeq.flatten.length + 4 * s.cfg.pages ∧ s.answers = List.replicate 0 .ok) ∧
    (∃ s : State, s.cfg.wf = true ∧ 26 < s.cfg.initSeq.flatten.length + 4 * s.cfg.pages ∧ s.answers = List.replicate 26 .ok) :=
  ⟨⟨{ W [] with answers := List.replicate 27 .ok }, [], tiny_wf, by decide +kernel⟩, ⟨W [], tiny_wf, by decide +kernel⟩,
    { W [] with answers := List.replicate 26 .ok }, tiny_wf, by decide +kernel⟩

/-- InitFailsBackToUninitialized: an ERR at the first transaction, where no step is done; in the middle, where
step 1 is and step 14 is not; and at the last, in the flush, where all are. -/
theorem witness_InitFails :
    (∃ (s : State) (rest : List Answer), s.cfg.wf = true ∧ s.answers = List.replicate 0 .ok ++ .err :: rest ∧ ¬ stepsDone s.cfg 1 0) ∧
    (∃ (s : State) (rest : List Answer), s.cfg.wf = true ∧ s.answers = List.replicate 1 .ok ++ .err :: rest ∧
      stepsDone s.cfg 1 1 ∧ ¬ stepsDone s.cfg 7 1 ∧ ¬ stepsDone s.cfg 14 1 ∧ 1 < s.cfg.initSeq.flatten.length) ∧
    (∃ (s : State) (rest : List Answer), s.cfg.wf = true ∧ s.answers = List.replicate 26 .ok ++ .err :: rest ∧
      stepsDone s.cfg 7 26 ∧ stepsDone s.cfg 14 26 ∧ s.cfg.initSeq.flatten.length ≤ 26 ∧
      26 < s.cfg.initSeq.flatten.length + 4 * s.cfg.pages) :=
  ⟨⟨{ W [] with answers := [.err] }, [], tiny_wf, rfl, by unfold stepsDone; decide +kernel⟩,
    ⟨{ W [] with answers := [.ok, .err] }, [], tiny_wf, rfl, by unfold stepsDone; decide +kernel⟩,
    ⟨{ W [] with answers := List.replicate 26 .ok ++ [.err] }, [], tiny_wf, rfl, by unfold stepsDone; decide +kernel⟩⟩

/-- ConfigurationCommandsFollowTheirAnswers: the answers of each clause. -/
theorem witness_Configuration : (W []).session = .ready ∧ (Instr.setdisp 0).wf = true ∧ (Instr.setdisp 1).wf = true ∧
    ({ W [] with answers := [.ok, .ok] } : State).answers = .ok :: .ok :: [] ∧
    ({ W [] with answers := [.err] } : State).answers = .err :: [] ∧
    ({ W [] with answers := [.ok, .err] } : State).answers = .ok :: .err :: [] ∧
    (W []).answers = [] ∧ ({ W [] with answers := [.ok] } : State).answers = [.ok] := by decide +kernel

/-- UnansweredTransactionStallsTheBlock: a CMD write, a write to STATUS, a change of source memory, no move. -/
theorem witness_Unanswered :
    ((waiting [writeByte 0x01]).Inv ∧ (waiting [writeByte 0x01]).wait.isSome = true ∧
      (waiting [writeByte 0x01]).inputs = .write 0x00 0x01 :: []) ∧
    ((waiting [.write 0x04 0]).Inv ∧ (waiting [.write 0x04 0]).wait.isSome = true ∧
      (waiting [.write 0x04 0]).inputs = .write 0x04 0 :: []) ∧
    ((waiting [.source 0 none]).Inv ∧ (waiting [.source 0 none]).wait.isSome = true ∧
      (waiting [.source 0 none]).inputs = .source 0 none :: []) ∧
    (waiting []).Inv ∧ (waiting []).wait.isSome = true ∧ (waiting []).inputs = [] :=
  ⟨⟨waiting_inv _, rfl, rfl⟩, ⟨waiting_inv _, rfl, rfl⟩, ⟨waiting_inv _, rfl, rfl⟩, waiting_inv _, rfl, rfl⟩

/-- LateAnswersAgreeWithReadyAnswers: a FLUSH that has one answer; waiting blocks to which an OK and an ERR come, in
`Ready` and in `Initializing`. -/
theorem witness_LateAnswers :
    (∃ (s t : State) (as : List Answer) (rest : List TxOp),
      s.wait = none ∧ exec .flush { s with answers := as } = .next t ∧ t.wait = some rest ∧ s.cfg.wf = true) ∧
    ((waiting [.answer .ok]).cfg.wf = true ∧ (waiting [.answer .ok]).wait = some ((flushOps tiny).drop 1) ∧
      (waiting [.answer .ok]).inputs = .answer .ok :: []) ∧
    ((waiting [.answer .err]).cfg.wf = true ∧ (waiting [.answer .err]).inputs = .answer .err :: [] ∧
      (waiting [.answer .err]).session ≠ .initializing) ∧
    (∃ (s : State) (rest : List TxOp), s.cfg.wf = true ∧ s.wait = some rest ∧ s.inputs = .answer .err :: [] ∧ s.session = .initializing) :=
  ⟨⟨W [], _, [.ok], _, rfl, rfl, rfl, tiny_wf⟩, ⟨tiny_wf, rfl, rfl⟩, ⟨tiny_wf, rfl, nofun⟩,
    { waiting [.answer .err] with session := .initializing, wait := some ((initOps tiny).drop 2) }, _, tiny_wf, rfl, rfl, rfl⟩

end Sys2Proof.Tests
end

section
/-! PROOFS. What a command can do, said once: every command but INIT is `execute` of its opcode, its legality and a
body (30_encoding.md R72), and a body changes the registers, completes, faults, or sends transactions. -/

namespace Sys2Proof.Machine

/-! ## Legality: the machine's tests are those of `Instr.wf` (R79) -/

theorem colLegal_eq_wfCol (c : Byte) : colLegal c = wfCol c := by
  revert c; decide

theorem boolLegal_eq_wfBool (b : Byte) : boolLegal b = wfBool b := by
  revert b; decide

/-- The flag bits 7 to 1 are 0 exactly for the values 0 and 1. -/
theorem reservedFlags_zero_iff (f : Byte) : (f &&& 0xFE#8) = 0x00#8 ↔ f.toNat ≤ 1 := by
  revert f; decide

theorem fontLegal_eq_wfFont (w h flags : Byte) : fontLegal w h flags = wfFont w h flags := by
  rw [Bool.eq_iff_iff]
  simp only [fontLegal, wfFont, Bool.not_eq_true', Bool.or_eq_false_iff, beq_eq_false_iff_ne, bne_eq_false_iff_eq,
    decide_eq_false_iff_not, Bool.and_eq_true, decide_eq_true_eq, reservedFlags_zero_iff]
  omega

/-! ## Loops that draw keep the framebuffer's size (20_memory.md R52) -/

/-- The value a part that reads source memory reached, whether it ended or faulted. -/
def Fetched.value {α : Type} : Fetched α → α
  | .done v => v
  | .fault v _ => v

@[simp] theorem Fetched.value_done {α : Type} (v : α) : (Fetched.done v).value = v := rfl
@[simp] theorem Fetched.value_fault {α : Type} (v : α) (a : Nat) : (Fetched.fault v a).value = v := rfl

theorem forEach_length {ι : Type} {n : Nat} {f : ι → List Byte → Fetched (List Byte)}
    (hf : ∀ i v, v.length = n → (f i v).value.length = n) (is : List ι) (v : List Byte) (hv : v.length = n) :
    (forEach f is v).value.length = n := by
  obtain ⟨hdone, hfault⟩ := forEach_keeps (P := fun v => v.length = n) (f := f)
    (fun i v v' hv e => by simpa [e] using hf i v hv)
    (fun i v v' a hv e => by simpa [e] using hf i v hv) is v hv
  cases h : forEach f is v with
  | done w => exact hdone w h
  | fault w a => exact hfault w a h

theorem readByte_length {n : Nat} (m : Memory) (a : Nat) {v : List Byte} {k : Byte → Fetched (List Byte)}
    (hv : v.length = n) (hk : ∀ b, (k b).value.length = n) : (readByte m a v k).value.length = n := by
  unfold readByte
  cases srcRead m a with
  | ok b => exact hk b
  | error e => exact hv

theorem loadBytes_length (src : Memory) (addr len : Nat) (fb : List Byte) :
    (loadBytes src addr len fb).value.length = fb.length :=
  forEach_length (fun _ _ hv => readByte_length _ _ hv fun _ => by simpa using hv) _ fb rfl

theorem polySegments_length (cfg : Config) (c : Color) (src : Memory) (addr count : Nat) (fb : List Byte) :
    (polySegments cfg c src addr count fb).value.length = fb.length :=
  forEach_length
    (fun _ _ hv =>
      readByte_length _ _ hv fun _ => readByte_length _ _ hv fun _ =>
        readByte_length _ _ hv fun _ => readByte_length _ _ hv fun _ => by simpa using hv) _ fb rfl

theorem blit_length (cfg : Config) (c : Color) (src : Memory) (x y addr w h : Nat) (fb : List Byte) :
    (blit cfg c src x y addr w h fb).value.length = fb.length := by
  refine forEach_length (fun j _ hrow => forEach_length (fun i v hv => readByte_length _ _ hv fun b => ?_) _ _ hrow) _ fb rfl
  by_cases hb : b.getLsbD (7 - i % 8) <;> simpa [hb] using hv

theorem invertRect_length (cfg : Config) (x1 y1 x2 y2 : Nat) (fb : List Byte) :
    (invertRect cfg x1 y1 x2 y2 fb).length = fb.length :=
  List.foldlRecOn (motive := fun fb' : List Byte => fb'.length = fb.length) _ _ rfl fun _ hrow _ _ =>
    List.foldlRecOn (motive := fun fb' : List Byte => fb'.length = fb.length) _ _ hrow fun _ hcol _ _ => by
      simpa using hcol

/-! ## What a body changes before it ends -/

/-- The commands that write characters (44_text_bitmap.md R201, R204). -/
inductive WritesText : Instr → Prop
  | wrchar (ch c : Byte) : WritesText (.wrchar ch c)
  | wrstr (addr : Word) (c : Byte) : WritesText (.wrstr addr c)

/-- The body of command `i`, started in `s`, has changed the registers to those of `u` and has not ended. -/
inductive BodyReaches : Instr → State → State → Prop
  | drew (i : Instr) (s : State) (fb : List Byte) (hl : s.fb.length = s.cfg.bufSize → fb.length = s.cfg.bufSize) :
      BodyReaches i s (s.withFb fb)
  | wrote {i : Instr} (hi : WritesText i) (s : State) (fb : List Byte) (x : Half) (hl : fb.length = s.fb.length) :
      BodyReaches i s { s with fb := fb, curx := x }
  | setcursor (x y : Half) (s : State) : BodyReaches (.setcursor x y) s { s with curx := x, cury := y }
  | setfont {w h flags : Byte} {data cw : Word} (hw : (Instr.setfont w h flags data cw).wf = true) (s : State) :
      BodyReaches (.setfont w h flags data cw) s
        { s with
          fontW := w, fontH := h, fontCwen := flagBit0 flags, fontData := data, fontCw := cw, fontValid := true }

theorem BodyReaches.refl (i : Instr) (s : State) : BodyReaches i s s := .drew i s s.fb id

/-- The operations of the commands other than INIT that send (45_session_transport.md R230, R235, R237). -/
inductive SendsOps (cfg : Config) : Instr → List TxOp → Prop
  | flush : SendsOps cfg .flush (flushOps cfg)
  | setcontrast (v : Byte) : SendsOps cfg (.setcontrast v) [.cmd cfg.contrastCmd, .cmd v, .setContrast v]
  | setdisp (sw : Byte) : SendsOps cfg (.setdisp sw) [.cmd (dispCmd cfg (boolOf sw)), .setDispon (boolOf sw)]

/-- How the body of command `i`, started in `s`, ends: it completes, raises a `SrcFault`, or runs its transactions. -/
inductive BodyEnds (i : Instr) (s : State) : State → Prop
  | completes {u : State} (hu : BodyReaches i s u) (st : Status) (r : Byte)
      (hr : r = 0x00#8 ∨ i = .getdisp ∨ WritesText i) : BodyEnds i s (u.complete st r)
  | faults {u : State} (hu : BodyReaches i s u) (a : Nat) : BodyEnds i s (u.raise (.src a))
  | sends {ops : List TxOp} (ho : SendsOps s.cfg i ops) : BodyEnds i s (runTx ops s)

theorem BodyEnds.of_complete (i : Instr) (s : State) (st : Status) : BodyEnds i s (s.complete st 0x00#8) :=
  .completes (.refl i s) st _ (.inl rfl)

theorem BodyEnds.of_withFb (i : Instr) {s : State} {fb : List Byte} (st : Status)
    (hl : s.fb.length = s.cfg.bufSize → fb.length = s.cfg.bufSize) : BodyEnds i s ((s.withFb fb).complete st 0x00#8) :=
  .completes (.drew i s fb hl) st _ (.inl rfl)

theorem BodyEnds.of_paintAll (i : Instr) (s : State) (c : Color) (pts : List Point) : BodyEnds i s (s.paintAll c pts) :=
  .of_withFb i .ok (by simp)

theorem BodyEnds.of_endFetch (i : Instr) {s : State} {r : Fetched (List Byte)} (hr : r.value.length = s.fb.length) :
    BodyEnds i s (s.endFetch r) := by
  cases r with
  | done fb => exact .of_withFb i .ok hr.trans
  | fault fb a => exact .faults (.drew i s fb hr.trans) a

/-- A string write that has reached `u` goes on to an end of the command (44_text_bitmap.md R204). -/
theorem BodyEnds.of_writeString {i : Instr} (hi : WritesText i) (c : Color) (s : State) (n a : Nat) (fb : List Byte)
    (x : Half) (hl : fb.length = s.fb.length) : BodyEnds i s (writeString c n a { s with fb := fb, curx := x }) := by
  induction n generalizing a fb x with
  | zero => exact .faults (.wrote hi s fb x hl) a
  | succ n ih =>
    unfold writeString
    split
    · exact .faults (.wrote hi s fb x hl) _
    · split
      · exact .completes (.wrote hi s fb x hl) .ok _ (.inl rfl)
      · rename_i ch _ _
        obtain ⟨st, -, hp⟩ | ⟨-, fb', adv, hl', -, -, hp⟩ | ⟨-, fb', e, hl', -, hp⟩ :=
          putGlyph_cases c ch.toNat { s with fb := fb, curx := x }
        · simpa only [hp] using .completes (.wrote hi s fb x hl) st ch (.inr (.inr hi))
        · simpa only [hp] using ih (a + 1) fb' _ (hl'.trans hl)
        · simpa only [hp] using .faults (.wrote hi s fb' x (hl'.trans hl)) e

/-! ## Every command -/

theorem execute_congr_legal {legal legal' : Bool} (h : legal = legal') (op : Byte) (body : State → State) (s : State) :
    execute op legal body s = execute op legal' body s := by rw [h]

/-- Every command but INIT runs under the tests of R72, with a body that ends in one of the listed ways. -/
theorem exec_eq_execute (i : Instr) (hi : i ≠ .init) :
    ∃ body, (∀ s, exec i s = execute (opcodeOf i) i.wf body s) ∧ ∀ s, i.wf = true → BodyEnds i s (body s) := by
  have col (op c : Byte) (body : State → State) (s : State) :
      execute op (colLegal c) body s = execute op (wfCol c) body s :=
    execute_congr_legal (colLegal_eq_wfCol c) op body s
  cases i <;> simp only [exec]
  case init => exact absurd rfl hi
  case fill c => exact ⟨_, fun _ => col _ c _ _, fun s _ => .of_withFb _ .ok fun _ => List.length_replicate⟩
  case load addr len =>
    refine ⟨_, fun _ => rfl, fun s _ => ?_⟩
    split
    · exact .of_complete _ s _
    · exact .of_endFetch _ (loadBytes_length ..)
  case flush => exact ⟨_, fun _ => rfl, fun _ _ => .sends .flush⟩
  case setcontrast v => exact ⟨_, fun _ => rfl, fun _ _ => .sends (.setcontrast v)⟩
  case setdisp sw =>
    exact ⟨_, fun _ => execute_congr_legal (boolLegal_eq_wfBool sw) _ _ _, fun _ _ => .sends (.setdisp sw)⟩
  case getdisp => exact ⟨_, fun _ => rfl, fun s _ => .completes (.refl _ s) .ok _ (.inr (.inl rfl))⟩
  case pixel x y c => exact ⟨_, fun _ => col _ c _ _, fun s _ => .of_paintAll _ s _ _⟩
  case line x1 y1 x2 y2 c => exact ⟨_, fun _ => col _ c _ _, fun s _ => .of_paintAll _ s _ _⟩
  case polyline addr count c =>
    refine ⟨_, fun _ => col _ c _ _, fun s _ => ?_⟩
    split
    · exact .of_complete _ s _
    · exact .of_endFetch _ (polySegments_length ..)
  case rect x1 y1 x2 y2 c => exact ⟨_, fun _ => col _ c _ _, fun s _ => .of_paintAll _ s _ _⟩
  case fillrect x1 y1 x2 y2 c => exact ⟨_, fun _ => col _ c _ _, fun s _ => .of_paintAll _ s _ _⟩
  case invrect x1 y1 x2 y2 =>
    refine ⟨_, fun _ => rfl, fun s _ => ?_⟩
    split
    · exact .of_withFb _ .ok (invertRect_length ..).trans
    · exact .of_complete _ s _
  case circle cx cy r c =>
    refine ⟨_, fun _ => col _ c _ _, fun s _ => ?_⟩
    split
    · exact .of_complete _ s _
    · exact .of_paintAll _ s _ _
  case fillcircle cx cy r c =>
    refine ⟨_, fun _ => col _ c _ _, fun s _ => ?_⟩
    split
    · exact .of_complete _ s _
    · exact .of_paintAll _ s _ _
  case arc cx cy r start sweep c => exact ⟨_, fun _ => col _ c _ _, fun s _ => .of_paintAll _ s _ _⟩
  case arcrl cx cy r start sweep c => exact ⟨_, fun _ => col _ c _ _, fun s _ => .of_paintAll _ s _ _⟩
  case filltri x0 y0 x1 y1 x2 y2 c => exact ⟨_, fun _ => col _ c _ _, fun s _ => .of_paintAll _ s _ _⟩
  case setfont w h flags data cw =>
    exact ⟨_, fun _ => execute_congr_legal (fontLegal_eq_wfFont w h flags) _ _ _, fun s hw =>
      .completes (.setfont hw s) .ok _ (.inl rfl)⟩
  case setcursor x y => exact ⟨_, fun _ => rfl, fun s _ => .completes (.setcursor x y s) .ok _ (.inl rfl)⟩
  case wrchar ch c =>
    refine ⟨_, fun _ => col _ c _ _, fun s _ => ?_⟩
    have hi : WritesText (.wrchar ch c) := .wrchar ch c
    obtain ⟨st, -, hp⟩ | ⟨-, fb, adv, hl, -, -, hp⟩ | ⟨-, fb, a, hl, -, hp⟩ := putGlyph_cases (colorOf c) ch.toNat s
    · simpa only [hp] using .of_complete _ s st
    · simpa only [hp] using .completes (.wrote hi s fb _ hl) .ok ch (.inr (.inr hi))
    · simpa only [hp] using .faults (.wrote hi s fb s.curx hl) a
  case wrstr addr c =>
    refine ⟨_, fun _ => col _ c _ _, fun s _ => ?_⟩
    split
    · exact .of_complete _ s _
    · exact .of_writeString (.wrstr addr c) _ s _ _ s.fb s.curx rfl
  case bitmap x y addr w h c =>
    refine ⟨_, fun _ => col _ c _ _, fun s _ => ?_⟩
    split
    · exact .of_complete _ s _
    · exact .of_endFetch _ (blit_length ..)

/-- Everything a command can do: INIT runs its transactions, any other command completes ILLEGAL, raises a
`PreInitFault`, or runs its body in a `Ready` session. -/
theorem exec_cases {i : Instr} {s t : State} (h : exec i s = .next t) :
    (i = .init ∧ t = runTx (initOps s.cfg) { s.begin with session := .initializing }) ∨
    (i ≠ .init ∧ i.wf = false ∧ t = s.begin.complete .illegal 0x00#8) ∨
    (i ≠ .init ∧ s.session ≠ .ready ∧ t = s.begin.raise (.preInit (opcodeOf i))) ∨
    (i ≠ .init ∧ s.session = .ready ∧ BodyEnds i s.begin t) := by
  by_cases hi : i = .init
  · subst hi; cases h; exact .inl ⟨rfl, rfl⟩
  · obtain ⟨body, hexec, hbody⟩ := exec_eq_execute i hi
    rw [hexec] at h
    obtain ⟨hw, rfl⟩ | ⟨-, hs, rfl⟩ | ⟨hw, hs, rfl⟩ := execute_cases h
    · exact .inr (.inl ⟨hi, hw, rfl⟩)
    · exact .inr (.inr (.inl ⟨hi, hs, rfl⟩))
    · exact .inr (.inr (.inr ⟨hi, hs, hbody _ hw⟩))

end Sys2Proof.Machine
end

section
/-! PROOFS. The state invariant: while a command runs the block has no reason to be busy but the command itself
(`State.Running`); every way a command ends gives the invariant back. -/

namespace Sys2Proof.Machine

/-! ## Transport commands by their operations -/

/-- The rule for a transport command: `P` holds of the work left and the state before each operation, and `Q` of the
state in which the command completes, fails or waits (20_memory.md R60). -/
theorem runTx_rule {P : List TxOp → State → Prop} {Q : State → Prop}
    (done : ∀ s, P [] s → Q (s.complete .ok 0x00#8))
    (silent : ∀ op rest s, op.tx s = none → P (op :: rest) s → P rest (op.apply s))
    (answered : ∀ op rest s t as, op.tx s = some t → P (op :: rest) s → P rest { s.send t with answers := as })
    (failed : ∀ op rest s t as, op.tx s = some t → P (op :: rest) s → Q (State.txError { s.send t with answers := as }))
    (waits : ∀ op rest s t, op.tx s = some t → s.answers = [] → P (op :: rest) s → Q { s.send t with wait := some rest })
    (ops : List TxOp) (s : State) (h : P ops s) : Q (runTx ops s) := by
  induction ops generalizing s with
  | nil => exact done s h
  | cons op ops ih =>
    cases htx : op.tx s with
    | none => rw [runTx_apply ops s htx]; exact ih _ (silent op ops s htx h)
    | some t =>
      rw [runTx_send ops s htx]
      split
      · exact waits op ops s t htx (by assumption) h
      · exact ih _ (answered op ops s t _ htx h)
      · exact failed op ops s t _ htx h

/-! ## A command that runs -/

/-- The state while a command runs: the invariant but for the reasons of BUSY, none of which holds yet. -/
structure State.Running (s : State) : Prop where
  cfgLegal : s.cfg.wf = true
  fbSize : s.fb.length = s.cfg.bufSize
  srcCanonical : Memory.wf s.src
  fontLegal : s.fontValid = true → 1 ≤ s.fontW.toNat ∧ s.fontW.toNat ≤ 16 ∧ 1 ≤ s.fontH.toNat
  fontReset : s.fontValid = false → s.fontW = 0x00#8 ∧ s.fontH = 0x00#8 ∧ s.fontCwen = false ∧ s.fontData = 0#32 ∧ s.fontCw = 0#32
  busy : s.busy = true
  noPacket : s.pkt = []
  noWait : s.wait = none
  noPreInit : s.faultPreInit = false
  noSrcFault : s.faultSrc = false
  noRecord : s.faultInfo = none

/-- A block that no model fault has stopped has no fault on record. -/
theorem State.Inv.noRecord {s : State} (h : s.Inv) (hp : s.faultPreInit = false) (hs : s.faultSrc = false) :
    s.faultInfo = none := by
  cases hi : s.faultInfo with
  | none => rfl
  | some f =>
    cases f with
    | preInit op => exact absurd (h.preInitRecord.2 ⟨op, hi⟩) (by simp [hp])
    | src a => exact absurd (h.srcRecord.2 ⟨a, hi⟩) (by simp [hs])

/-- A command that starts on a free command port runs. -/
theorem State.Inv.running_begin {s : State} (h : s.Inv) (hb : s.busy = false) :
    State.Running (State.begin { s with pkt := [] }) := by
  obtain ⟨hwait, hpre, hsrc⟩ : s.wait = none ∧ s.faultPreInit = false ∧ s.faultSrc = false := by
    simpa [hb, State.faulted] using h.busyWhy
  exact { h with
    busy := rfl, noPacket := rfl, noWait := hwait, noPreInit := hpre, noSrcFault := hsrc, noRecord := h.noRecord hpre hsrc }

/-- Only INIT holds `Initializing`, so no free command port does (10_state.md R23). -/
theorem State.Inv.session_of_idle {s : State} (h : s.Inv) (hb : s.busy = false) : s.session ≠ .initializing := by
  intro hi
  obtain ⟨rest, hw, -⟩ := h.initializing hi
  simp [h.busyWhy, hw] at hb

/-- A command that waits keeps the block busy (10_state.md R36). -/
theorem State.Inv.busy_of_wait {s : State} (h : s.Inv) (hw : s.wait.isSome = true) : s.busy = true := by
  rw [h.busyWhy, hw, Bool.true_or]

/-- A waiting command runs again once its answer has come. -/
theorem State.Inv.running_resume {s : State} {rest : List TxOp} (h : s.Inv) (hw : s.wait = some rest) :
    State.Running { s with wait := none } := by
  have hbusy : s.busy = true := h.busy_of_wait (by simp [hw])
  obtain ⟨hpre, hsrc⟩ : s.faultPreInit = false ∧ s.faultSrc = false := by
    simpa [hw, State.faulted] using h.waitNotFaulted
  exact { h with
    busy := hbusy, noPacket := h.busyPkt hbusy, noWait := rfl, noPreInit := hpre, noSrcFault := hsrc,
    noRecord := h.noRecord hpre hsrc }

theorem State.Running.inv_complete {s : State} (h : s.Running) (hs : s.session ≠ .initializing) (st : Status) (r : Byte) :
    (s.complete st r).Inv :=
  { h with
    pktPartial := by simp [h.noPacket, packetComplete]
    busyPkt := nofun
    busyWhy := by simp [h.noWait, State.faulted, h.noPreInit, h.noSrcFault]
    waitNotFaulted := by simp [h.noWait]
    waitAnswers := by simp [h.noWait]
    waitSession := by simp [h.noWait]
    initializing := fun hi => absurd hi hs
    preInitRecord := by simp [h.noPreInit, h.noRecord]
    srcRecord := by simp [h.noSrcFault, h.noRecord] }

theorem State.Running.inv_raise {s : State} (h : s.Running) (hs : s.session ≠ .initializing) (f : FaultInfo) :
    (s.raise f).Inv where
  cfgLegal := by simpa using h.cfgLegal
  fbSize := by simpa using h.fbSize
  srcCanonical := by simpa using h.srcCanonical
  fontLegal := by simpa using h.fontLegal
  fontReset := by simpa using h.fontReset
  pktPartial := by simp [h.noPacket, packetComplete]
  busyPkt := by simp [h.noPacket]
  busyWhy := by simp
  waitNotFaulted := by simp [h.noWait]
  waitAnswers := by simp [h.noWait]
  waitSession := by simp [h.noWait]
  initializing hi := absurd (by simpa using hi) hs
  preInitRecord := by cases f <;> simp [State.raise, h.noPreInit]
  srcRecord := by cases f <;> simp [State.raise, h.noSrcFault]

/-- After an ERR the session is not `Initializing` (45_session_transport.md R223). -/
theorem State.Running.inv_txError {s : State} (h : s.Running) : s.txError.Inv := by
  refine State.Running.inv_complete
    (s := { s with session := if s.session = .initializing then .uninitialized else s.session }) { h with } ?_ _ _
  by_cases hs : s.session = .initializing <;> simp [hs]

/-- What a body changes before it ends, a running block may hold. -/
theorem State.Running.reaches {i : Instr} {s u : State} (h : s.Running) (hu : BodyReaches i s u) : u.Running := by
  cases hu with
  | drew _ _ fb hl => exact { h with fbSize := hl h.fbSize }
  | wrote _ _ fb x hl => exact { h with fbSize := hl.trans h.fbSize }
  | setcursor x y => exact { h with }
  | setfont hw =>
    simp only [Instr.wf, wfFont, Bool.and_eq_true, decide_eq_true_eq] at hw
    obtain ⟨⟨⟨hw1, hw16⟩, hh⟩, -⟩ := hw
    exact { h with fontLegal := fun _ => ⟨hw1, hw16, hh⟩, fontReset := nofun }

theorem BodyReaches.session_eq {i : Instr} {s u : State} (hu : BodyReaches i s u) : u.session = s.session := by
  cases hu <;> rfl

/-! ## A transport command that runs -/

theorem State.Running.apply {s : State} (h : s.Running) (op : TxOp) : (op.apply s).Running := by
  cases op with
  | clearFb => exact { h with fbSize := List.length_replicate }
  | _ => exact { h with }

/-- The work left of a command that runs: in `Initializing` the command is INIT, which ends in `Ready`
(45_session_transport.md R222). -/
structure InitLeft (ops : List TxOp) (s : State) : Prop where
  started : s.session ≠ .uninitialized
  left : s.session = .initializing → ops ≠ [] ∧ ops <:+ initOps s.cfg

theorem InitLeft.of_ready {ops : List TxOp} {s : State} (h : s.session = .ready) : InitLeft ops s :=
  ⟨by simp [h], by simp [h]⟩

/-- INIT ends with `STATE <- Ready`. -/
theorem initOps_getLast? (cfg : Config) : (initOps cfg).getLast? = some .ready := by
  simp [initOps, List.getLast?_cons]

/-- What is left of INIT after an operation other than its last, `STATE <- Ready`. -/
theorem initOps_left {cfg : Config} {op : TxOp} {ops : List TxOp} (h : op :: ops <:+ initOps cfg) (hop : op ≠ .ready) :
    ops ≠ [] ∧ ops <:+ initOps cfg := by
  refine ⟨?_, (List.suffix_cons op ops).trans h⟩
  rintro rfl
  obtain ⟨before, hb⟩ := h
  have hlast : some op = some .ready := by rw [← initOps_getLast? cfg, ← hb, List.getLast?_concat]
  exact hop (Option.some.inj hlast)

theorem InitLeft.next {op : TxOp} {ops : List TxOp} {s : State} (h : InitLeft (op :: ops) s) (hop : op ≠ .ready) :
    s.session = .initializing → ops ≠ [] ∧ ops <:+ initOps s.cfg :=
  fun hi => initOps_left (h.left hi).2 hop

theorem InitLeft.apply {op : TxOp} {ops : List TxOp} {s : State} (h : InitLeft (op :: ops) s) :
    InitLeft ops (op.apply s) := by
  cases op with
  | ready => exact .of_ready rfl
  | _ => exact ⟨h.started, h.next nofun⟩

theorem TxOp.ne_ready_of_tx {op : TxOp} {s : State} {t : Tx} (h : op.tx s = some t) : op ≠ .ready := by
  rintro rfl; cases h

/-- A transport command keeps the invariant, whether it completes, fails or waits. -/
theorem State.Running.inv_runTx {ops : List TxOp} {s : State} (h : s.Running) (hl : InitLeft ops s) : (runTx ops s).Inv := by
  refine runTx_rule (P := fun ops s => s.Running ∧ InitLeft ops s) (Q := State.Inv)
    ?done ?silent ?answered ?failed ?waits ops s ⟨h, hl⟩
  case done => exact fun s ⟨h, hl⟩ => h.inv_complete (fun hi => (hl.left hi).1 rfl) _ _
  case silent => exact fun op rest s _ ⟨h, hl⟩ => ⟨h.apply op, hl.apply⟩
  case answered => exact fun op rest s t as htx ⟨h, hl⟩ => ⟨{ h with }, hl.started, hl.next (TxOp.ne_ready_of_tx htx)⟩
  case failed => exact fun op rest s t as _ ⟨h, _⟩ => State.Running.inv_txError { h with }
  case waits =>
    intro op rest s t htx ha ⟨h, hl⟩
    exact { h with
      pktPartial := by simp [h.noPacket, packetComplete]
      busyPkt := fun _ => h.noPacket
      busyWhy := by simp [h.busy]
      waitNotFaulted := fun _ => by simp [State.faulted, h.noPreInit, h.noSrcFault]
      waitAnswers := fun _ => ha
      waitSession := fun _ => hl.started
      initializing := fun hi => ⟨rest, rfl, hl.next (TxOp.ne_ready_of_tx htx) hi⟩
      preInitRecord := by simp [h.noPreInit, h.noRecord]
      srcRecord := by simp [h.noSrcFault, h.noRecord] }

/-! ## Commands and packets -/

/-- Every command keeps the invariant, from a free command port. -/
theorem exec_inv {i : Instr} {s t : State} (h : s.Inv) (hb : s.busy = false) (he : exec i { s with pkt := [] } = .next t) :
    t.Inv := by
  have hrun := h.running_begin hb
  have hsession := h.session_of_idle hb
  obtain ⟨-, rfl⟩ | ⟨-, -, rfl⟩ | ⟨-, -, rfl⟩ | ⟨-, hs, hends⟩ := exec_cases he
  · exact State.Running.inv_runTx { hrun with } ⟨nofun, fun _ => ⟨by simp [initOps], List.suffix_refl _⟩⟩
  · exact hrun.inv_complete hsession _ _
  · exact hrun.inv_raise hsession _
  · cases hends with
    | completes hu st r _ => exact (hrun.reaches hu).inv_complete (hu.session_eq.trans_ne hsession) st r
    | faults hu a => exact (hrun.reaches hu).inv_raise (hu.session_eq.trans_ne hsession) _
    | sends _ => exact hrun.inv_runTx (.of_ready hs)

theorem cmdWrite_inv {b : Byte} {s t : State} (h : s.Inv) (hw : cmdWrite b s = .next t) : t.Inv := by
  obtain ⟨-, -, rfl⟩ | ⟨hb, hp, rfl⟩ | ⟨hb, -, hx⟩ := cmdWrite_cases hw
  · exact h
  · exact { h with pktPartial := hp, busyPkt := fun hb' => absurd hb' (by simp [hb]) }
  · obtain ⟨i, -, he⟩ | ⟨e, -, rfl⟩ := executePacket_cases hx
    · exact exec_inv h hb he
    · exact (h.running_begin hb).inv_complete (h.session_of_idle hb) _ _

theorem resumeTx_inv {a : Answer} {rest : List TxOp} {s : State} (h : s.Inv) (hw : s.wait = some rest) :
    (resumeTx a rest s).Inv := by
  have hrun := h.running_resume hw
  cases a with
  | err => exact hrun.inv_txError
  | ok =>
    refine hrun.inv_runTx ⟨h.waitSession (by simp [hw]), fun hi => ?_⟩
    obtain ⟨rest', hw', hne, hsuf⟩ := h.initializing hi
    obtain rfl : rest' = rest := Option.some.inj (hw'.symm.trans hw)
    exact ⟨hne, hsuf⟩

/-- Reset has the invariant, under every legal configuration and canonical source memory. -/
theorem resetWith_inv {cfg : Config} {src : Memory} (hc : cfg.wf = true) (hm : Memory.wf src) (as : List Answer)
    (ms : List Input) (n : Nat) : (State.resetWith cfg src as ms n).Inv where
  cfgLegal := hc
  fbSize := State.reset_fb_length cfg src as ms n
  srcCanonical := hm
  fontLegal := nofun
  fontReset _ := ⟨rfl, rfl, rfl, rfl, rfl⟩
  pktPartial := rfl
  busyPkt := nofun
  busyWhy := rfl
  waitNotFaulted := nofun
  waitAnswers := nofun
  waitSession := nofun
  initializing := nofun
  preInitRecord := by simp [State.resetWith]
  srcRecord := by simp [State.resetWith]

theorem environmentMove_inv {m : Input} {s t : State} (h : s.Inv) (hm : environmentMove m s = .next t) : t.Inv := by
  obtain ⟨_, _, -, -, rfl⟩ | ⟨v, -, hw⟩ | ⟨_, -, -, rfl⟩ | ⟨a, rest, -, hw, rfl⟩ | ⟨-, rfl⟩ | ⟨a, b, -, rfl⟩ :=
    environmentMove_cases hm
  · exact h
  · exact cmdWrite_inv h hw
  · exact h
  · exact resumeTx_inv h hw
  · exact resetWith_inv h.cfgLegal h.srcCanonical ..
  · exact { h with srcCanonical := Memory.put_wf a b h.srcCanonical }

/-- Settles O18: an idle step changes nothing, and every move of the environment keeps the invariant. -/
theorem everyStepKeepsTheInvariant : Obligations.EveryStepKeepsTheInvariant := by
  intro s t h hstep
  obtain ⟨-, ⟨-, rfl⟩ | ⟨m, ms, -, hm⟩⟩ := step_cases hstep
  · exact h
  · exact environmentMove_inv (s := { s with inputs := ms }) { h with } hm

end Sys2Proof.Machine
end

section
/-! PROOFS. Which registers each command writes (10_state.md R20), when LAST and RESULT change (R30, R31), and that the
framebuffer a session starts with is not observed (93_implementation_defined.md S1). -/

namespace Sys2Proof.Machine

/-! ## The writers of each register -/

/-- From `s` to `u`, command `i` has changed no register of which R20 does not list it as a writer. -/
structure KeepsRegisters (i : Instr) (s u : State) : Prop where
  session : i ≠ .init → u.session = s.session
  cury : i ≠ .init → (∀ x y, i ≠ .setcursor x y) → u.cury = s.cury
  curx : i ≠ .init → (∀ x y, i ≠ .setcursor x y) → ¬ WritesText i → u.curx = s.curx
  dispon : i ≠ .init → (∀ b, i ≠ .setdisp b) → u.dispon = s.dispon
  contrast : i ≠ .init → (∀ v, i ≠ .setcontrast v) → u.contrast = s.contrast
  font : (∀ w h f d cw, i ≠ .setfont w h f d cw) →
    u.fontValid = s.fontValid ∧ u.fontW = s.fontW ∧ u.fontH = s.fontH ∧ u.fontCwen = s.fontCwen ∧
    u.fontData = s.fontData ∧ u.fontCw = s.fontCw

theorem KeepsRegisters.refl (i : Instr) (s : State) : KeepsRegisters i s s :=
  ⟨fun _ => rfl, fun _ _ => rfl, fun _ _ _ => rfl, fun _ _ => rfl, fun _ _ => rfl, fun _ => ⟨rfl, rfl, rfl, rfl, rfl, rfl⟩⟩

theorem KeepsRegisters.complete {i : Instr} {s u : State} (h : KeepsRegisters i s u) (st : Status) (r : Byte) :
    KeepsRegisters i s (u.complete st r) := { h with }

theorem KeepsRegisters.raise {i : Instr} {s u : State} (h : KeepsRegisters i s u) (f : FaultInfo) :
    KeepsRegisters i s (u.raise f) := by
  cases f <;> exact { h with }

theorem BodyReaches.keepsRegisters {i : Instr} {s u : State} (hu : BodyReaches i s u) : KeepsRegisters i s u := by
  cases hu with
  | drew => exact { KeepsRegisters.refl i s with }
  | wrote hi => exact { KeepsRegisters.refl i s with curx := fun _ _ hn => absurd hi hn }
  | setcursor x y =>
    exact { KeepsRegisters.refl _ s with cury := fun _ hn => absurd rfl (hn x y), curx := fun _ hn => absurd rfl (hn x y) }
  | @setfont w h flags data cw => exact { KeepsRegisters.refl _ s with font := fun hn => absurd rfl (hn w h flags data cw) }

/-- Outside INIT the operations that send nothing are the register writes of SETCONTRAST and SETDISP. -/
theorem SendsOps.silent {cfg : Config} {i : Instr} {ops : List TxOp} (ho : SendsOps cfg i ops) {op : TxOp}
    (hop : op ∈ ops) (hs : op.sends = false) :
    (∃ v, i = .setcontrast v ∧ op = .setContrast v) ∨ (∃ sw, i = .setdisp sw ∧ op = .setDispon (boolOf sw)) := by
  cases ho with
  | flush =>
    simp only [flushOps, List.mem_flatMap, List.mem_cons, List.not_mem_nil, or_false] at hop
    obtain ⟨p, -, rfl | rfl | rfl | rfl⟩ := hop <;> cases hs
  | setcontrast v =>
    simp only [List.mem_cons, List.not_mem_nil, or_false] at hop
    obtain rfl | rfl | rfl := hop
    · cases hs
    · cases hs
    · exact .inl ⟨v, rfl, rfl⟩
  | setdisp sw =>
    simp only [List.mem_cons, List.not_mem_nil, or_false] at hop
    obtain rfl | rfl := hop
    · cases hs
    · exact .inr ⟨sw, rfl, rfl⟩

theorem SendsOps.ne_init {cfg : Config} {i : Instr} {ops : List TxOp} (ho : SendsOps cfg i ops) : i ≠ .init := by
  cases ho <;> exact nofun

theorem TxOp.sends_eq_false {op : TxOp} {s : State} (h : op.tx s = none) : op.sends = false := by
  rw [← TxOp.tx_isSome op s, h]; rfl

/-- A register write of a sending command keeps the registers the command does not write. -/
theorem KeepsRegisters.apply {cfg : Config} {i : Instr} {ops : List TxOp} {s u : State} (h : KeepsRegisters i s u)
    (ho : SendsOps cfg i ops) {op : TxOp} (hop : op ∈ ops) (hs : op.sends = false) : KeepsRegisters i s (op.apply u) := by
  obtain ⟨v, rfl, rfl⟩ | ⟨sw, rfl, rfl⟩ := ho.silent hop hs
  · exact { h with contrast := fun _ hn => absurd rfl (hn v) }
  · exact { h with dispon := fun _ hn => absurd rfl (hn sw) }

theorem KeepsRegisters.of_sends {i : Instr} {ops : List TxOp} {s : State} (ho : SendsOps s.cfg i ops)
    (hs : s.session = .ready) : KeepsRegisters i s (runTx ops s) := by
  refine runTx_rule (P := fun rest u => rest <:+ ops ∧ KeepsRegisters i s u) (Q := KeepsRegisters i s)
    ?done ?silent ?answered ?failed ?waits ops s ⟨List.suffix_refl ops, .refl i s⟩
  case done => exact fun u ⟨_, h⟩ => h.complete _ _
  case silent =>
    exact fun op rest u htx ⟨hsuf, h⟩ =>
      ⟨(List.suffix_cons op rest).trans hsuf, h.apply ho (hsuf.subset List.mem_cons_self) (TxOp.sends_eq_false htx)⟩
  case answered => exact fun op rest u t as _ ⟨hsuf, h⟩ => ⟨(List.suffix_cons op rest).trans hsuf, { h with }⟩
  case failed =>
    intro op rest u t as _ ⟨_, h⟩
    have hu : u.session = .ready := (h.session ho.ne_init).trans hs
    exact { h with session := fun _ => by simp [hu, hs] }
  case waits => exact fun op rest u t _ _ ⟨_, h⟩ => { h with }

theorem KeepsRegisters.of_begin {i : Instr} {s t : State} (h : KeepsRegisters i s.begin t) : KeepsRegisters i s t := { h with }

theorem exec_keepsRegisters {i : Instr} {s t : State} (h : exec i s = .next t) : KeepsRegisters i s t := by
  obtain ⟨rfl, rfl⟩ | ⟨-, -, rfl⟩ | ⟨-, -, rfl⟩ | ⟨-, hs, hends⟩ := exec_cases h
  · obtain ⟨-, -, -, -, -, -, -, -, hfont⟩ := runTx_keeps (initOps s.cfg) { s.begin with session := .initializing }
    exact ⟨absurd rfl, absurd rfl, absurd rfl, absurd rfl, absurd rfl, fun _ => hfont⟩
  · exact .of_begin ((KeepsRegisters.refl i _).complete _ _)
  · exact .of_begin ((KeepsRegisters.refl i _).raise _)
  · refine .of_begin ?_
    cases hends with
    | completes hu st r _ => exact hu.keepsRegisters.complete st r
    | faults hu a => exact hu.keepsRegisters.raise _
    | sends ho => exact .of_sends ho hs

/-- Settles O22: each way a command ends keeps the registers it does not write. -/
theorem registersChangeOnlyByTheirWriters : Obligations.RegistersChangeOnlyByTheirWriters := by
  intro i s t h
  obtain ⟨hsession, hcury, hcurx, hdispon, hcontrast, hfont⟩ := exec_keepsRegisters h
  refine ⟨hsession, hcury, fun hi hc hwrchar hwrstr => hcurx hi hc ?_, hdispon, hcontrast, hfont⟩
  rintro (⟨ch, c⟩ | ⟨a, c⟩)
  · exact hwrchar ch c rfl
  · exact hwrstr a c rfl

/-! ## Fault bits and completion -/

/-- The registers of R30 to R32 are left alone until a body ends. -/
theorem BodyReaches.keepsStatus {i : Instr} {s u : State} (hu : BodyReaches i s u) :
    u.last = s.last ∧ u.result = s.result ∧ u.faultPreInit = s.faultPreInit ∧ u.faultSrc = s.faultSrc := by
  cases hu <;> exact ⟨rfl, rfl, rfl, rfl⟩

/-- A fault sets sticky bits and clears none (60_exceptions.md R258). -/
theorem State.raise_sticky (f : FaultInfo) (s : State) :
    (s.faultPreInit = true → (s.raise f).faultPreInit = true) ∧ (s.faultSrc = true → (s.raise f).faultSrc = true) := by
  cases f <;> simp [State.raise]

/-- A running transport command that waits has not changed LAST or RESULT; one that completed has RESULT `0x00`. -/
theorem runTx_completion (ops : List TxOp) {s : State} (hb : s.busy = true) :
    ((runTx ops s).busy = true → (runTx ops s).last = s.last ∧ (runTx ops s).result = s.result) ∧
    ((runTx ops s).busy = false → (runTx ops s).result = 0x00#8) := by
  obtain ⟨hbusy, -, -, hr⟩ | ⟨hbusy, -, -, hr, -⟩ | ⟨hbusy, -, hl, hr, -⟩ := runTx_cases ops s
  · simp [hbusy, hr]
  · simp [hbusy, hr]
  · simp [hbusy, hb, hl, hr]

/-- What R30 to R32 and R36 ask of the state `t` that command `i` leaves. -/
structure KeepsStatus (i : Instr) (s t : State) : Prop where
  preInit : s.faultPreInit = true → t.faultPreInit = true
  src : s.faultSrc = true → t.faultSrc = true
  unfinished : t.busy = true → t.last = s.last ∧ t.result = s.result
  completed : t.busy = false → i ≠ .getdisp → ¬ WritesText i → t.result = 0x00#8

theorem KeepsStatus.of_raise (i : Instr) {s u : State} (f : FaultInfo)
    (h : u.last = s.last ∧ u.result = s.result ∧ u.faultPreInit = s.faultPreInit ∧ u.faultSrc = s.faultSrc) :
    KeepsStatus i s (u.raise f) := by
  obtain ⟨hl, hr, hp, hs⟩ := h
  obtain ⟨hpre, hsrc⟩ := State.raise_sticky f u
  exact ⟨fun h => hpre (hp.trans h), fun h => hsrc (hs.trans h), fun _ => by simp [hl, hr], by simp⟩

theorem KeepsStatus.of_complete {i : Instr} {s u : State} (st : Status) {r : Byte}
    (h : u.faultPreInit = s.faultPreInit ∧ u.faultSrc = s.faultSrc) (hr : r = 0x00#8 ∨ i = .getdisp ∨ WritesText i) :
    KeepsStatus i s (u.complete st r) := by
  obtain ⟨hp, hs⟩ := h
  exact ⟨hp.trans, hs.trans, nofun, fun _ hg ht => hr.resolve_right (not_or.2 ⟨hg, ht⟩)⟩

theorem KeepsStatus.of_runTx (i : Instr) (ops : List TxOp) {s : State} (hb : s.busy = true) : KeepsStatus i s (runTx ops s) := by
  obtain ⟨-, -, -, -, -, -, hp, hs, -⟩ := runTx_keeps ops s
  obtain ⟨hwait, hdone⟩ := runTx_completion ops hb
  exact ⟨hp.trans, hs.trans, hwait, fun h _ _ => hdone h⟩

theorem exec_keepsStatus {i : Instr} {s t : State} (h : exec i s = .next t) : KeepsStatus i s t := by
  obtain ⟨-, rfl⟩ | ⟨-, -, rfl⟩ | ⟨-, -, rfl⟩ | ⟨-, -, hends⟩ := exec_cases h
  · exact { KeepsStatus.of_runTx i (initOps s.cfg) (s := { s.begin with session := .initializing }) rfl with }
  · exact .of_complete _ ⟨rfl, rfl⟩ (.inl rfl)
  · exact .of_raise i _ ⟨rfl, rfl, rfl, rfl⟩
  · cases hends with
    | completes hu st r hr => exact .of_complete st hu.keepsStatus.2.2 hr
    | faults hu a => exact .of_raise i _ hu.keepsStatus
    | @sends ops ho => exact { KeepsStatus.of_runTx i ops (s := s.begin) rfl with }

/-- Settles O23: a completion sets LAST, RESULT and BUSY together, and a fault or a wait sets neither LAST nor RESULT. -/
theorem faultBitsStickAndResultsWaitForCompletion : Obligations.FaultBitsStickAndResultsWaitForCompletion := by
  intro i s t h
  obtain ⟨hpre, hsrc, hunfinished, hcompleted⟩ := exec_keepsStatus h
  refine ⟨hpre, hsrc, hunfinished, fun hb hg hwrchar hwrstr => hcompleted hb hg ?_⟩
  rintro (⟨ch, c⟩ | ⟨a, c⟩)
  · exact hwrchar ch c rfl
  · exact hwrstr a c rfl

/-! ## The framebuffer before INIT -/

/-- The operations `INIT_SEQ` is made of (45_session_transport.md R221): none of them uses the framebuffer or
changes the session. -/
def TxOp.isInitSeq : TxOp → Bool
  | .cmd _ => true
  | .setDispon _ => true
  | .setContrast _ => true
  | _ => false

theorem initEffect_isInitSeq (n : Nat) (bytes : List Byte) : ∀ op ∈ initEffect n bytes, op.isInitSeq = true := by
  unfold initEffect
  split
  · simp [TxOp.isInitSeq]
  · split <;> simp [TxOp.isInitSeq]
  · simp [TxOp.isInitSeq]
  · simp

theorem initSeqOps_isInitSeq (cfg : Config) : ∀ op ∈ initSeqOps cfg, op.isInitSeq = true := by
  intro op hop
  simp only [initSeqOps, List.mem_flatMap, List.mem_append, List.mem_map] at hop
  obtain ⟨step, -, ⟨b, -, rfl⟩ | hop⟩ := hop
  · rfl
  · exact initEffect_isInitSeq _ _ op hop

/-- States of an INIT that differ in the framebuffer alone, and are one state once the session is `Ready`. -/
def AlikeUntilReady (t t' : State) : Prop := t' = { t with fb := t'.fb } ∧ (t.session = .ready → t' = t)

theorem AlikeUntilReady.refl (t : State) : AlikeUntilReady t t := ⟨rfl, fun _ => rfl⟩

/-- Up to the clearing of the framebuffer an INIT does not depend on it, and from there on nothing is left of it
(45_session_transport.md R222). -/
theorem runTx_initSeq_fb (ops rest : List TxOp) (hops : ∀ op ∈ ops, op.isInitSeq = true) (s : State) (fb : List Byte)
    (hs : s.session = .initializing) :
    AlikeUntilReady (runTx (ops ++ .clearFb :: rest) s) (runTx (ops ++ .clearFb :: rest) { s with fb := fb }) := by
  induction ops generalizing s with
  | nil => exact .refl _
  | cons op ops ih =>
    have ih := ih fun op hop => hops op (List.mem_cons_of_mem _ hop)
    have hop := hops op List.mem_cons_self
    simp only [List.cons_append]
    cases op with
    | cmd b =>
      rw [runTx_send _ s (t := .cmd b) rfl, runTx_send _ { s with fb := fb } (t := .cmd b) rfl]
      dsimp only
      split
      · exact ⟨rfl, by simp [hs]⟩
      · exact ih { s.send (.cmd b) with answers := _ } hs
      · exact ⟨rfl, by simp [hs]⟩
    | setDispon b => exact ih { s with dispon := b } hs
    | setContrast v => exact ih { s with contrast := v } hs
    | page p => cases hop
    | clearFb => cases hop
    | ready => cases hop

/-- Settles O25: outside a `Ready` session a command but INIT completes ILLEGAL or faults, whatever the framebuffer
holds, and INIT clears it before it flushes. -/
theorem framebufferBeforeInitIsUnobserved : Obligations.FramebufferBeforeInitIsUnobserved := by
  intro i s t fb hs _ h
  suffices ∃ t', exec i { s with fb := fb } = .next t' ∧ AlikeUntilReady t t' from this
  by_cases hi : i = .init
  · subst hi
    cases h
    refine ⟨_, rfl, ?_⟩
    have hfb := runTx_initSeq_fb (initSeqOps s.cfg) (flushOps s.cfg ++ [.ready]) (initSeqOps_isInitSeq s.cfg)
      { s.begin with session := .initializing } fb rfl
    simpa [initOps] using hfb
  · obtain ⟨body, hexec, -⟩ := exec_eq_execute i hi
    rw [hexec] at h ⊢
    obtain ⟨hw, rfl⟩ | ⟨hw, -, rfl⟩ | ⟨-, hr, -⟩ := execute_cases h
    · exact ⟨_, by rw [hw]; rfl, rfl, fun hr => absurd hr hs⟩
    · exact ⟨_, execute_preInit hw hs, rfl, fun hr => absurd hr hs⟩
    · exact absurd hr hs

end Sys2Proof.Machine
end

section
/-! PROOFS. The command port: packets and commands stand for one another (30_encoding.md R77), how the port takes a
byte (10_state.md R35), a waiting block, and the STATUS word (R29). -/

namespace Sys2Proof

open Laws in
/-- Every command's packet has the length of its assigned opcode. -/
theorem packetShape (i : Instr) : PacketShape.Statement i :=
  match i with
  | .init => PacketShape.init
  | .fill c => PacketShape.fill c
  | .load a n => PacketShape.load a n
  | .flush => PacketShape.flush
  | .setcontrast v => PacketShape.setcontrast v
  | .setdisp b => PacketShape.setdisp b
  | .getdisp => PacketShape.getdisp
  | .pixel x y c => PacketShape.pixel x y c
  | .line x1 y1 x2 y2 c => PacketShape.line x1 y1 x2 y2 c
  | .polyline a n c => PacketShape.polyline a n c
  | .rect x1 y1 x2 y2 c => PacketShape.rect x1 y1 x2 y2 c
  | .fillrect x1 y1 x2 y2 c => PacketShape.fillrect x1 y1 x2 y2 c
  | .invrect x1 y1 x2 y2 => PacketShape.invrect x1 y1 x2 y2
  | .circle x y r c => PacketShape.circle x y r c
  | .fillcircle x y r c => PacketShape.fillcircle x y r c
  | .arc x y r s w c => PacketShape.arc x y r s w c
  | .arcrl x y r s w c => PacketShape.arcrl x y r s w c
  | .filltri x0 y0 x1 y1 x2 y2 c => PacketShape.filltri x0 y0 x1 y1 x2 y2 c
  | .setfont w h f d cw => PacketShape.setfont w h f d cw
  | .setcursor x y => PacketShape.setcursor x y
  | .wrchar h c => PacketShape.wrchar h c
  | .wrstr a c => PacketShape.wrstr a c
  | .bitmap x y a w h c => PacketShape.bitmap x y a w h c

/-- The operand bytes of a command are read back as that command. -/
theorem decodeOperands_operandBytes (i : Instr) : decodeOperands (opcodeOf i).toNat (operandBytes i) = some i := by
  cases i with
  | load addr len => exact congrArg₂ (fun a n => some (Instr.load a n)) (le32_bytes addr) (le16_bytes len)
  | polyline addr count c => exact congrArg₂ (fun a n => some (Instr.polyline a n c)) (le32_bytes addr) (le16_bytes count)
  | arc x y r s w c => exact congrArg₂ (fun s w => some (Instr.arc x y r s w c)) (le16_bytes s) (le16_bytes w)
  | arcrl x y r s w c => exact congrArg₂ (fun s w => some (Instr.arcrl x y r s w c)) (le16_bytes s) (le16_bytes w)
  | setfont w h f d cw => exact congrArg₂ (fun d cw => some (Instr.setfont w h f d cw)) (le32_bytes d) (le32_bytes cw)
  | setcursor x y => exact congrArg₂ (fun x y => some (Instr.setcursor x y)) (le16_bytes x) (le16_bytes y)
  | wrstr addr c => exact congrArg (fun a => some (Instr.wrstr a c)) (le32_bytes addr)
  | bitmap x y addr w h c => exact congrArg (fun a => some (Instr.bitmap x y a w h c)) (le32_bytes addr)
  | _ => rfl

theorem decodePacket_encode (i : Instr) : decodePacket (encode i) = .ok i := by
  simp [decodePacket, encode, decodeOperands_operandBytes]

/-- Operand bytes that are read as a command, under an assigned opcode, are that command's. -/
theorem eq_of_decodeOperands {op : Byte} {ops : List Byte} {i : Instr} (ha : reservedOpcode op = false)
    (h : decodeOperands op.toNat ops = some i) : op.toNat = (opcodeOf i).toNat ∧ ops = operandBytes i := by
  unfold reservedOpcode assignedLen at ha
  split at ha
  case h_24 => cases ha
  -- the assigned opcodes in the order of R77, each with the operand bytes its row asks for
  all_goals rename_i hop; rw [hop] at h ⊢
  · match ops, h with | [], rfl => exact ⟨rfl, rfl⟩
  · match ops, h with | [_], rfl => exact ⟨rfl, rfl⟩
  · match ops, h with | [_, _, _, _, _, _], rfl => exact ⟨rfl, by simp [operandBytes]⟩
  · match ops, h with | [], rfl => exact ⟨rfl, rfl⟩
  · match ops, h with | [_], rfl => exact ⟨rfl, rfl⟩
  · match ops, h with | [_], rfl => exact ⟨rfl, rfl⟩
  · match ops, h with | [], rfl => exact ⟨rfl, rfl⟩
  · match ops, h with | [_, _, _], rfl => exact ⟨rfl, rfl⟩
  · match ops, h with | [_, _, _, _, _], rfl => exact ⟨rfl, rfl⟩
  · match ops, h with | [_, _, _, _, _, _, _], rfl => exact ⟨rfl, by simp [operandBytes]⟩
  · match ops, h with | [_, _, _, _, _], rfl => exact ⟨rfl, rfl⟩
  · match ops, h with | [_, _, _, _, _], rfl => exact ⟨rfl, rfl⟩
  · match ops, h with | [_, _, _, _], rfl => exact ⟨rfl, rfl⟩
  · match ops, h with | [_, _, _, _], rfl => exact ⟨rfl, rfl⟩
  · match ops, h with | [_, _, _, _], rfl => exact ⟨rfl, rfl⟩
  · match ops, h with | [_, _, _, _, _, _, _, _], rfl => exact ⟨rfl, by simp [operandBytes]⟩
  · match ops, h with | [_, _, _, _, _, _, _, _], rfl => exact ⟨rfl, by simp [operandBytes]⟩
  · match ops, h with | [_, _, _, _, _, _, _], rfl => exact ⟨rfl, rfl⟩
  · match ops, h with | [_, _, _, _, _, _, _, _, _, _, _], rfl => exact ⟨rfl, by simp [operandBytes]⟩
  · match ops, h with | [_, _, _, _], rfl => exact ⟨rfl, by simp [operandBytes]⟩
  · match ops, h with | [_, _], rfl => exact ⟨rfl, rfl⟩
  · match ops, h with | [_, _, _, _, _], rfl => exact ⟨rfl, by simp [operandBytes]⟩
  · match ops, h with | [_, _, _, _, _, _, _, _, _], rfl => exact ⟨rfl, by simp [operandBytes]⟩

/-- A packet with an assigned opcode that decodes to a command is that command's packet (R77). -/
theorem encode_of_decodePacket {op : Byte} {ops : List Byte} {i : Instr} (ha : reservedOpcode op = false)
    (h : decodePacket (op :: ops) = .ok i) : encode i = op :: ops := by
  simp only [decodePacket] at h
  split at h
  · rename_i j hj
    cases h
    obtain ⟨hop, hops⟩ := eq_of_decodeOperands ha hj
    rw [encode, ← hops, BitVec.eq_of_toNat_eq hop]
  · split at h <;> cases h

end Sys2Proof

namespace Sys2Proof.Machine

/-! ## The port takes a byte -/

theorem packetComplete_cons (op : Byte) (ops : List Byte) :
    packetComplete (op :: ops) = decide (packetLen op ≤ (op :: ops).length) := rfl

theorem packetComplete_encode (i : Instr) : packetComplete (encode i) = true := by
  obtain ⟨-, hlen, -⟩ := packetShape i
  rw [encode] at hlen ⊢
  simp [packetComplete_cons, hlen]

/-- A packet that decodes to a command is complete (R71). -/
theorem packetComplete_of_decodePacket {p : List Byte} {i : Instr} (h : decodePacket p = .ok i) : packetComplete p = true := by
  cases p with
  | nil => cases h
  | cons op ops =>
    cases ha : reservedOpcode op with
    | true =>
      have hlen : packetLen op = 1 := by rw [packetLen, Option.isNone_iff_eq_none.1 ha]; rfl
      simp [packetComplete_cons, hlen]
    | false => rw [← encode_of_decodePacket ha h]; exact packetComplete_encode i

/-- A free port that receives a CMD write takes its low byte. -/
theorem State.PortOpen.step_write {s : State} {v : Word} {ms : List Input} (h : s.PortOpen)
    (hi : s.inputs = .write 0 v :: ms) : step s = cmdWrite (v.extractLsb' 0 8) { s with inputs := ms } :=
  step_move h.cfgLegal hi

theorem cmdWrite_complete {b : Byte} {s : State} {i : Instr} (hb : s.busy = false)
    (hp : decodePacket (s.pkt ++ [b]) = .ok i) : cmdWrite b s = exec i { s with pkt := [] } := by
  simp [cmdWrite, hb, packetComplete_of_decodePacket hp, executePacket, hp]

theorem cmdWrite_partial {b : Byte} {s : State} (hb : s.busy = false) (hp : packetComplete (s.pkt ++ [b]) = false) :
    cmdWrite b s = .next { s with pkt := s.pkt ++ [b] } := by
  simp [cmdWrite, hb, hp]

/-- Settles O6: a packet that decodes is complete, so the port runs it. -/
theorem stepRunsTheDecodedCommand : Obligations.StepRunsTheDecodedCommand := by
  intro s v ms i hopen hi hp
  rw [hopen.step_write hi]
  exact cmdWrite_complete hopen.idle hp

/-- Settles O7: the packet with the byte is shorter than its opcode asks, so it is not complete. -/
theorem unfinishedPacketWaitsForMoreBytes : Obligations.UnfinishedPacketWaitsForMoreBytes := by
  intro s v ms op ops hopen hi hpkt hlen
  have hpartial : packetComplete (s.pkt ++ [v.extractLsb' 0 8]) = false := by
    rw [hpkt, packetComplete_cons, decide_eq_false (Nat.not_le.2 hlen)]
  rw [hopen.step_write hi, cmdWrite_partial (s := { s with inputs := ms }) hopen.idle hpartial, ← hpkt]

/-! ## A whole packet, byte by byte -/

/-- The low byte of the word the host writes is the packet byte. -/
theorem extractLsb'_zeroExtend (b : Byte) : ((b.zeroExtend 32 : Word)).extractLsb' 0 8 = b := by
  apply BitVec.eq_of_getLsbD_eq
  intro k hk
  simp [hk, show k < 32 by omega]

/-- A packet of which bytes are still missing is not complete. -/
theorem packetComplete_of_missing {i : Instr} {p q : List Byte} (h : p ++ q = encode i) (hp : p ≠ []) (hq : q ≠ []) :
    packetComplete p = false := by
  obtain ⟨-, hlen, -⟩ := packetShape i
  cases p with
  | nil => exact absurd rfl hp
  | cons op ops =>
    obtain ⟨rfl, -⟩ : op = opcodeOf i ∧ ops ++ q = operandBytes i := by simpa [encode] using h
    have hq : 0 < q.length := List.length_pos_of_ne_nil hq
    rw [← h, List.length_append] at hlen
    rw [packetComplete_cons, decide_eq_false (by omega)]

theorem run_succ_of_next {M : Host.Core} {k : Nat} {s t : M.State} (h : M.step s = .next t) : M.run (k + 1) s = M.run k t := by
  simp only [Host.Core.run, h]

/-- A run of one step is that step, whatever its outcome. -/
theorem run_one (M : Host.Core) (s : M.State) : M.run 1 s = M.step s := by
  unfold Host.Core.run
  cases M.step s <;> rfl

/-- From a port that has received the part `p` of a command's packet, writing the rest runs the command. -/
theorem run_rest_of_packet {i : Instr} (q : List Byte) {p : List Byte} (h : p ++ q = encode i) (hq : q ≠ []) {s : State}
    (hopen : s.PortOpen) (hp : s.pkt = p) (ms : List Input) :
    Host.Core.run core q.length { s with inputs := q.map writeByte ++ ms } = exec i { s with inputs := ms, pkt := [] } := by
  induction q generalizing p s with
  | nil => exact absurd rfl hq
  | cons b q ih =>
    have hstep : step { s with inputs := (b :: q).map writeByte ++ ms } =
        cmdWrite b { s with inputs := q.map writeByte ++ ms } := by
      have hwrite := State.PortOpen.step_write (s := { s with inputs := (b :: q).map writeByte ++ ms }) { hopen with } rfl
      rwa [extractLsb'_zeroExtend] at hwrite
    cases q with
    | nil =>
      refine (run_one core _).trans (hstep.trans (cmdWrite_complete hopen.idle ?_))
      rw [hp, h, decodePacket_encode]
    | cons b' q =>
      have happ : (p ++ [b]) ++ b' :: q = encode i := by simpa using h
      have hpartial : packetComplete (s.pkt ++ [b]) = false := by
        rw [hp]; exact packetComplete_of_missing happ (by simp) (by simp)
      refine (run_succ_of_next (M := core) (hstep.trans (cmdWrite_partial hopen.idle hpartial))).trans ?_
      exact ih happ (by simp) (s := { s with pkt := s.pkt ++ [b] }) { hopen with } (by rw [hp])

/-- Settles O8, by induction on the bytes still to be written. -/
theorem writtenPacketRunsTheCommand : Obligations.WrittenPacketRunsTheCommand := by
  intro s i ms hopen hpkt
  have hrun := run_rest_of_packet (encode i) (p := []) rfl (by simp [encode]) hopen hpkt ms
  rwa [← hpkt] at hrun

/-! ## A waiting block -/

/-- A CMD write while a command waits breaks the host's duty (log entry 10). -/
theorem cmdWrite_waiting {b : Byte} {s : State} (hb : s.busy = true) (hf : s.faulted = false) :
    cmdWrite b s = .fault .cmdWriteWhileBusy := by
  simp [cmdWrite, hb, hf]

/-- Settles O59: a waiting block is busy and has not faulted, which decides each move. -/
theorem unansweredTransactionStallsTheBlock : Obligations.UnansweredTransactionStallsTheBlock := by
  intro s ms h hw
  refine ⟨fun v hi => ?cmd, fun offset v hi hoff => ?other, fun a b hi => ?source, step_idle h.cfgLegal⟩
  case cmd =>
    rw [step_move h.cfgLegal hi]
    exact cmdWrite_waiting (s := { s with inputs := ms }) (h.busy_of_wait hw) (h.waitNotFaulted hw)
  case other =>
    rw [step_move h.cfgLegal hi]
    exact if_neg hoff
  case source =>
    rw [step_move h.cfgLegal hi]
    rfl

/-! ## STATUS -/

/-- Bit `k` of STATUS, field by field from bit 0 up (R29). -/
theorem statusWord_getLsbD (s : State) (k : Nat) :
    (statusWord s).getLsbD k =
      if k < 1 then (BitVec.ofBool s.busy).getLsbD k
      else if k < 3 then s.session.code.getLsbD (k - 1)
      else if k < 4 then false
      else if k < 8 then s.last.code.getLsbD (k - 4)
      else if k < 9 then (BitVec.ofBool s.dispon).getLsbD (k - 8)
      else if k < 10 then (BitVec.ofBool s.fontValid).getLsbD (k - 9)
      else if k < 11 then (BitVec.ofBool s.faultPreInit).getLsbD (k - 10)
      else if k < 12 then (BitVec.ofBool s.faultSrc).getLsbD (k - 11)
      else false := by
  refine (BitVec.getLsbD_append (y := BitVec.ofBool s.busy)).trans ?_
  simp only [BitVec.getLsbD_append, Nat.sub_sub]
  refine if_congr Iff.rfl rfl ?_
  refine if_congr (by omega) rfl ?_
  refine if_congr (by omega) BitVec.getLsbD_zero ?_
  refine if_congr (by omega) rfl ?_
  refine if_congr (by omega) rfl ?_
  refine if_congr (by omega) rfl ?_
  refine if_congr (by omega) rfl ?_
  exact if_congr (by omega) rfl BitVec.getLsbD_zero

theorem statusWord_session (s : State) : (statusWord s).extractLsb' 1 2 = s.session.code := by
  apply BitVec.eq_of_getLsbD_eq
  intro k hk
  rw [BitVec.getLsbD_extractLsb', statusWord_getLsbD]
  simp [hk, show 1 + k < 3 by omega]

theorem statusWord_last (s : State) : (statusWord s).extractLsb' 4 4 = s.last.code := by
  apply BitVec.eq_of_getLsbD_eq
  intro k hk
  rw [BitVec.getLsbD_extractLsb', statusWord_getLsbD]
  simp [hk, show ¬ 4 + k < 3 by omega, show 4 + k < 8 by omega]

theorem statusWord_reserved (s : State) : (statusWord s).extractLsb' 12 20 = 0#20 := by
  apply BitVec.eq_of_getLsbD_eq
  intro k hk
  have h (n : Nat) (hn : n ≤ 12) : ¬ 12 + k < n := by omega
  rw [BitVec.getLsbD_extractLsb', statusWord_getLsbD]
  simp [h]

theorem statusWord_busy (s : State) : (statusWord s).extractLsb' 0 1 = BitVec.ofBool s.busy := by
  apply BitVec.eq_of_getLsbD_eq
  intro k hk
  rw [BitVec.getLsbD_extractLsb', statusWord_getLsbD]
  simp [hk]

/-- Settles O11, from the bits of the word. -/
theorem statusWordHoldsTheListedFields : Obligations.StatusWordHoldsTheListedFields := by
  refine ⟨fun s => ⟨statusWord_busy s, ?session, ?_, ?last, ?_, ?_, ?_, ?_, statusWord_reserved s⟩,
    fun s v ms hc => step_move (s := { s with inputs := .write 0x04 v :: ms }) hc rfl, rfl⟩
  case session => rw [statusWord_session]; cases s.session <;> rfl
  case last => rw [statusWord_last]; cases s.last <;> rfl
  all_goals rw [statusWord_getLsbD]; simp

end Sys2Proof.Machine
end

section
/-! PROOFS. The block's ports (20_memory.md): what a command leaves of source memory, the environment and the trace
(R55, R60), the register window (R66), and that an answer may come late (R60, R63). -/

namespace Sys2Proof.Machine

/-! ## The ports a command keeps to -/

/-- From `s` to `u` a command has written neither source memory nor the parameters nor the environment's moves, has
kept the framebuffer's size, and has only appended to the trace. -/
structure KeepsPorts (s u : State) : Prop where
  src : u.src = s.src
  cfg : u.cfg = s.cfg
  inputs : u.inputs = s.inputs
  pkt : u.pkt = s.pkt
  resets : u.resets = s.resets
  fbSize : s.fb.length = s.cfg.bufSize → u.fb.length = s.cfg.bufSize
  trace : s.trace <+: u.trace

theorem KeepsPorts.refl (s : State) : KeepsPorts s s := ⟨rfl, rfl, rfl, rfl, rfl, id, List.prefix_refl _⟩

theorem KeepsPorts.complete {s u : State} (h : KeepsPorts s u) (st : Status) (r : Byte) : KeepsPorts s (u.complete st r) :=
  { h with }

theorem KeepsPorts.raise {s u : State} (h : KeepsPorts s u) (f : FaultInfo) : KeepsPorts s (u.raise f) := by
  cases f <;> exact { h with }

theorem KeepsPorts.send {s u : State} (h : KeepsPorts s u) (t : Tx) : KeepsPorts s (u.send t) :=
  { h with trace := h.trace.trans (List.prefix_append _ [t]) }

theorem KeepsPorts.apply {s u : State} (h : KeepsPorts s u) (op : TxOp) : KeepsPorts s (op.apply u) := by
  cases op with
  | clearFb => exact { h with fbSize := fun _ => by simp [TxOp.apply, h.cfg] }
  | _ => exact { h with }

/-- A transport command keeps to its ports, however it ends. -/
theorem KeepsPorts.runTx {s u : State} (ops : List TxOp) (h : KeepsPorts s u) : KeepsPorts s (runTx ops u) := by
  refine runTx_rule (P := fun _ u => KeepsPorts s u) (Q := KeepsPorts s) ?done ?silent ?answered ?failed ?waits ops u h
  case done => exact fun u h => h.complete _ _
  case silent => exact fun op _ u _ h => h.apply op
  case answered => exact fun _ _ u t as _ h => { h.send t with }
  case failed => exact fun _ _ u t as _ h => { h.send t with }
  case waits => exact fun _ _ u t _ _ h => { h.send t with }

theorem BodyReaches.keepsPorts {i : Instr} {s u : State} (hu : BodyReaches i s u) : KeepsPorts s u := by
  cases hu with
  | drew _ _ fb hl => exact { KeepsPorts.refl s with fbSize := hl }
  | wrote _ _ fb x hl => exact { KeepsPorts.refl s with fbSize := hl.trans }
  | setcursor => exact { KeepsPorts.refl s with }
  | setfont => exact { KeepsPorts.refl s with }

/-- A body that has not ended has used the transport for nothing. -/
theorem BodyReaches.keepsTransport {i : Instr} {s u : State} (hu : BodyReaches i s u) :
    u.trace = s.trace ∧ u.answers = s.answers := by
  cases hu <;> exact ⟨rfl, rfl⟩

theorem BodyReaches.wait_eq {i : Instr} {s u : State} (hu : BodyReaches i s u) : u.wait = s.wait := by
  cases hu <;> rfl

theorem exec_keepsPorts {i : Instr} {s t : State} (h : exec i s = .next t) : KeepsPorts s t := by
  have hbegin : KeepsPorts s s.begin := { KeepsPorts.refl s with }
  obtain ⟨-, rfl⟩ | ⟨-, -, rfl⟩ | ⟨-, -, rfl⟩ | ⟨-, -, hends⟩ := exec_cases h
  · exact KeepsPorts.runTx _ { hbegin with }
  · exact hbegin.complete _ _
  · exact hbegin.raise _
  · cases hends with
    | completes hu st r _ => exact { hu.keepsPorts.complete st r with }
    | faults hu a => exact { hu.keepsPorts.raise (.src a) with }
    | sends _ => exact hbegin.runTx _

/-- The commands that send transactions (R61). -/
inductive UsesTransport : Instr → Prop
  | init : UsesTransport .init
  | flush : UsesTransport .flush
  | setcontrast (v : Byte) : UsesTransport (.setcontrast v)
  | setdisp (sw : Byte) : UsesTransport (.setdisp sw)

theorem SendsOps.usesTransport {cfg : Config} {i : Instr} {ops : List TxOp} (ho : SendsOps cfg i ops) : UsesTransport i := by
  cases ho <;> constructor

/-- Every other command sends nothing and takes no answer. -/
theorem exec_keepsTransport {i : Instr} {s t : State} (hi : ¬ UsesTransport i) (h : exec i s = .next t) :
    t.trace = s.trace ∧ t.answers = s.answers := by
  obtain ⟨rfl, -⟩ | ⟨-, -, rfl⟩ | ⟨-, -, rfl⟩ | ⟨-, -, hends⟩ := exec_cases h
  · exact absurd .init hi
  · exact ⟨rfl, rfl⟩
  · exact ⟨rfl, rfl⟩
  · cases hends with
    | completes hu _ _ _ => exact hu.keepsTransport
    | faults hu _ => exact hu.keepsTransport
    | sends ho => exact absurd ho.usesTransport hi

/-- Settles O21: each way a command ends keeps to its ports, and only a body of transactions sends. -/
theorem commandsKeepToTheirPorts : Obligations.CommandsKeepToTheirPorts := by
  intro i s t hfb h
  obtain ⟨hsrc, hcfg, hinputs, hpkt, hresets, hsize, htrace⟩ := exec_keepsPorts h
  refine ⟨hsrc, hcfg, hinputs, hpkt, hresets, hsize hfb, htrace, fun hinit hflush hcontrast hdisp => ?_⟩
  refine exec_keepsTransport ?_ h
  rintro (_ | _ | v | sw)
  · exact hinit rfl
  · exact hflush rfl
  · exact hcontrast v rfl
  · exact hdisp sw rfl

/-! ## Late answers -/

/-- A transport command that waits, given one more ready answer, does what the answer does when it comes late. -/
theorem runTx_late (ops : List TxOp) {s : State} {rest : List TxOp} (a : Answer) (hs : s.wait = none)
    (hw : (runTx ops s).wait = some rest) :
    runTx ops { s with answers := s.answers ++ [a] } = resumeTx a rest (runTx ops s) := by
  induction ops generalizing s with
  | nil => exact absurd (hs.symm.trans hw) nofun
  | cons op ops ih =>
    have htx : op.tx { s with answers := s.answers ++ [a] } = op.tx s := by cases op <;> rfl
    cases h : op.tx s with
    | none =>
      have happ : op.apply { s with answers := s.answers ++ [a] } =
          { op.apply s with answers := (op.apply s).answers ++ [a] } := by cases op <;> rfl
      have hwait : (op.apply s).wait = s.wait := by cases op <;> rfl
      rw [runTx_apply ops s h] at hw ⊢
      rw [runTx_apply ops _ (htx.trans h), happ]
      exact ih (hwait.trans hs) hw
    | some t =>
      rw [runTx_send ops s h] at hw ⊢
      rw [runTx_send ops _ (htx.trans h)]
      rcases has : s.answers with _ | ⟨_ | _, as⟩ <;> simp only [has] at hw ⊢
      case nil =>
        -- the late answer is to this transaction
        obtain rfl : ops = rest := Option.some.inj hw
        have hstate : { s.send t with answers := [] } = { s.send t with wait := none } := by simp [has, hs]
        cases a with
        | ok => exact congrArg (runTx ops) hstate
        | err => exact congrArg State.txError hstate
      case cons.ok => exact ih (s := { s.send t with answers := as }) hs hw
      case cons.err => exact absurd (hs.symm.trans hw) nofun

/-- A legal sending command in a `Ready` session is a run of its transactions. -/
theorem SendsOps.exec_eq_runTx {i : Instr} {ops : List TxOp} {s : State} (ho : SendsOps s.cfg i ops) (hw : i.wf = true)
    (hr : s.session = .ready) : exec i s = .next (runTx ops s.begin) := by
  cases ho with
  | flush => exact execute_body (body := fun s => runTx (flushOps s.cfg) s) rfl hr
  | setcontrast v => exact execute_body (body := fun s => runTx [.cmd s.cfg.contrastCmd, .cmd v, .setContrast v] s) rfl hr
  | setdisp sw =>
    exact execute_body (body := fun s => runTx [.cmd (dispCmd s.cfg (boolOf sw)), .setDispon (boolOf sw)] s)
      ((boolLegal_eq_wfBool sw).trans hw) hr

/-- A command that waits is a run of its transactions, whatever answers are ready and whatever moves are to come. -/
theorem exec_eq_runTx_of_wait {i : Instr} {s t : State} {rest : List TxOp} (h : exec i s = .next t) (hs : s.wait = none)
    (ht : t.wait = some rest) :
    ∃ ops session, ∀ as ms, exec i { s with answers := as, inputs := ms } =
      .next (runTx ops { s.begin with session := session, answers := as, inputs := ms }) := by
  by_cases hi : i = .init
  · subst hi; exact ⟨initOps s.cfg, .initializing, fun _ _ => rfl⟩
  obtain ⟨body, hexec, hbody⟩ := exec_eq_execute i hi
  rw [hexec] at h
  obtain ⟨-, rfl⟩ | ⟨-, -, rfl⟩ | ⟨hw, hr, rfl⟩ := execute_cases h
  · exact absurd (hs.symm.trans ht) nofun
  · exact absurd (hs.symm.trans ht) nofun
  · have hends := hbody s.begin hw
    generalize body s.begin = t at hends ht
    cases hends with
    | completes hu st r _ => exact absurd (hs.symm.trans (hu.wait_eq.symm.trans ht)) nofun
    | faults hu a => exact absurd (hs.symm.trans (hu.wait_eq.symm.trans ht)) nofun
    | sends ho => exact ⟨_, s.session, fun as ms => ho.exec_eq_runTx (s := { s with answers := as, inputs := ms }) hw hr⟩

/-- A command that waits, given one more ready answer, does what the answer does when it comes late, under any moves
to come. -/
theorem exec_late {i : Instr} {s t : State} {as : List Answer} {rest : List TxOp} (a : Answer) (hs : s.wait = none)
    (h : exec i { s with answers := as } = .next t) (ht : t.wait = some rest) (ms : List Input) :
    exec i { s with answers := as ++ [a], inputs := ms } = .next (resumeTx a rest { t with inputs := ms }) := by
  obtain ⟨ops, session, hexec⟩ := exec_eq_runTx_of_wait h hs ht
  obtain rfl := Host.Outcome.next.inj (h.symm.trans (hexec as s.inputs))
  have hlate := runTx_late ops (s := { s.begin with session := session, answers := as, inputs := ms }) (rest := rest) a hs
  rw [runTx_inputs ops { s.begin with session := session, answers := as, inputs := s.inputs } ms] at hlate
  exact (hexec (as ++ [a]) ms).trans (congrArg _ (hlate ht))

/-- The step in which the transport answers a waiting command. -/
theorem step_answer {s : State} {a : Answer} {rest : List TxOp} {ms : List Input} (hc : s.cfg.wf = true)
    (hw : s.wait = some rest) (hi : s.inputs = .answer a :: ms) : step s = .next (resumeTx a rest { s with inputs := ms }) := by
  rw [step_move hc hi]
  simp [environmentMove, hw]

/-- Settles O60: the transactions of a waiting command go on from a late answer as from a ready one. -/
theorem lateAnswersAgreeWithReadyAnswers : Obligations.LateAnswersAgreeWithReadyAnswers := by
  refine ⟨fun i s t as a rest hs h ht => ⟨?ready, fun hc ms => ?late⟩, fun s rest ms hc hw => ⟨step_answer hc hw, fun hi => ?err⟩⟩
  case ready =>
    have hinputs : t.inputs = s.inputs := (exec_keepsPorts h).inputs
    exact (exec_late a hs h ht s.inputs).trans (by rw [← hinputs])
  case late =>
    have hcfg : t.cfg = s.cfg := (exec_keepsPorts h).cfg
    rw [exec_late a hs h ht ms, step_answer (s := { t with inputs := .answer a :: ms }) (hcfg ▸ hc) ht rfl]
  case err => exact ⟨_, step_answer hc hw hi, rfl, fun hs => if_pos hs, fun hs => if_neg hs⟩

/-! ## The register window -/

theorem hostRead_reserved {offset : Nat} (h : 0x0C ≤ offset) (s : State) : hostRead s offset = 0#32 := by
  unfold hostRead
  split
  · omega
  · omega
  · rfl

/-- RESULT is read in the low byte; the bits above it are zero. -/
theorem hostRead_result (s : State) :
    (hostRead s 0x08).extractLsb' 0 8 = s.result ∧ (hostRead s 0x08).extractLsb' 8 24 = 0#24 := by
  refine ⟨extractLsb'_zeroExtend s.result, BitVec.eq_of_getLsbD_eq fun k hk => ?_⟩
  simp [hostRead]

/-- A write to an offset other than CMD's changes nothing. -/
theorem step_write_other {s : State} {offset : Nat} {v : Word} {ms : List Input} (hc : s.cfg.wf = true)
    (hi : s.inputs = .write offset v :: ms) (ho : offset ≠ 0) : step s = .next { s with inputs := ms } := by
  rw [step_move hc hi]
  exact if_neg ho

theorem cmdWrite_executes {b : Byte} {s : State} (hb : s.busy = false) (hp : packetComplete (s.pkt ++ [b]) = true) :
    cmdWrite b s = executePacket (s.pkt ++ [b]) { s with pkt := [] } := by
  simp [cmdWrite, hb, hp]

/-- A free port takes the low byte of a value written to CMD, whatever bits 31:8 hold. -/
theorem State.PortOpen.step_write_append {s : State} (h : s.PortOpen) (b : Byte) (hi : BitVec 24) (ms : List Input) :
    step { s with inputs := .write 0 (hi ++ b) :: ms } = cmdWrite b { s with inputs := ms } := by
  have hstep := State.PortOpen.step_write (s := { s with inputs := .write 0 (hi ++ b) :: ms }) { h with } rfl
  have hlow : (hi ++ b).extractLsb' 0 8 = b := BitVec.extractLsb'_append_eq_right
  rwa [hlow] at hstep

/-- Settles O10: the reads and writes offset by offset. -/
theorem registerWindowReadsAndWrites : Obligations.RegisterWindowReadsAndWrites := by
  refine ⟨fun s => ⟨rfl, rfl, hostRead_result s⟩, fun s offset h => hostRead_reserved h s, ?ignored, ?appended, ?executed⟩
  case ignored => exact fun s offset v ms hc hi ho => step_write_other hc hi (by omega)
  case appended =>
    intro s b hi ms hopen hp
    exact (hopen.step_write_append b hi ms).trans (cmdWrite_partial hopen.idle hp)
  case executed =>
    intro s b hi ms hopen hp
    exact (hopen.step_write_append b hi ms).trans (cmdWrite_executes hopen.idle hp)

end Sys2Proof.Machine
end

section
/-! PROOFS. The packets (30_encoding.md): which byte strings decode (R71, R78), that the decoder and the encoder are
inverse (R70, R73), where each field stands (R77), and what a reserved byte does at the port (R78). -/

namespace Sys2Proof

/-! ## Lengths of packets -/

theorem assignedLen_eq_some_iff {op : Byte} {n : Nat} :
    assignedLen op = some n ↔ reservedOpcode op = false ∧ n = packetLen op := by
  unfold reservedOpcode packetLen
  cases assignedLen op with
  | none => simp
  | some m => simp [eq_comm]

theorem packetLen_of_reserved {op : Byte} (h : reservedOpcode op = true) : packetLen op = 1 := by
  rw [packetLen, Option.isNone_iff_eq_none.1 h, Option.getD_none]

/-- The opcodes with a row in R77 are the bytes between the reserved ranges of R78. -/
theorem reservedOpcode_iff (op : Byte) :
    reservedOpcode op = true ↔
      op.toNat = 0x00 ∨ (0x08 ≤ op.toNat ∧ op.toNat ≤ 0x0F) ∨ (0x1B ≤ op.toNat ∧ op.toNat ≤ 0x1F) ∨
      (0x24 ≤ op.toNat ∧ op.toNat ≤ 0x27) ∨ 0x29 ≤ op.toNat := by
  unfold reservedOpcode assignedLen
  split
  case h_24 => simp only [imp_false, Option.isNone_none, true_iff] at *; omega
  all_goals simp only [Option.isNone_some, Bool.false_eq_true, false_iff]; omega

/-! ## Which byte strings decode -/

/-- No row of R77 has a reserved opcode. -/
theorem decodeOperands_of_reserved {op : Byte} (ops : List Byte) (h : reservedOpcode op = true) :
    decodeOperands op.toNat ops = none := by
  have hranges := (reservedOpcode_iff op).1 h
  generalize op.toNat = n at hranges
  obtain rfl | ⟨_, _⟩ | ⟨_, _⟩ | ⟨_, _⟩ | htop := hranges
  · rfl
  · interval_cases n <;> rfl
  · interval_cases n <;> rfl
  · interval_cases n <;> rfl
  · obtain ⟨k, rfl⟩ := Nat.exists_eq_add_of_le' htop
    rfl

/-- Each row of R77 asks for as many operand bytes as R71 counts for its opcode. -/
theorem assignedLen_of_decodeOperands {op : Byte} {ops : List Byte} {i : Instr}
    (h : decodeOperands op.toNat ops = some i) : assignedLen op = some (ops.length + 1) := by
  cases ha : reservedOpcode op with
  | true => rw [decodeOperands_of_reserved ops ha] at h; cases h
  | false =>
    obtain ⟨hop, rfl⟩ := eq_of_decodeOperands ha h
    obtain rfl := BitVec.eq_of_toNat_eq hop
    obtain ⟨-, hlen, -⟩ := packetShape i
    exact assignedLen_eq_some_iff.2 ⟨ha, hlen⟩

theorem exists_eq_ofFn_of_length {α : Type} {l : List α} {n : Nat} (h : l.length = n) : ∃ f : Fin n → α, l = List.ofFn f :=
  h ▸ ⟨l.get, (List.ofFn_get l).symm⟩

/-- Operand bytes of the right number are read as a command, whatever their values. -/
theorem exists_decodeOperands {op : Byte} {ops : List Byte} (h : assignedLen op = some (ops.length + 1)) :
    ∃ i, decodeOperands op.toNat ops = some i := by
  unfold assignedLen at h
  split at h
  case h_24 => cases h
  all_goals
    rename_i hop
    obtain ⟨f, rfl⟩ := exists_eq_ofFn_of_length (Nat.succ.inj (Option.some.inj h)).symm
    rw [hop]
    exact ⟨_, rfl⟩

theorem decodePacket_of_some {op : Byte} {ops : List Byte} {i : Instr} (h : decodeOperands op.toNat ops = some i) :
    decodePacket (op :: ops) = .ok i := by
  simp [decodePacket, h]

/-- A packet that is no command is rejected for its opcode first and then for its length. -/
theorem decodePacket_of_none {op : Byte} {ops : List Byte} (h : decodeOperands op.toNat ops = none) :
    decodePacket (op :: ops) = .error (if reservedOpcode op then .reserved op else .wrongLength op) := by
  cases hr : reservedOpcode op <;> simp [decodePacket, h, hr]

theorem decodePacket_eq_ok_iff {op : Byte} {ops : List Byte} {i : Instr} :
    decodePacket (op :: ops) = .ok i ↔ decodeOperands op.toNat ops = some i := by
  cases h : decodeOperands op.toNat ops with
  | none => simp [decodePacket_of_none h]
  | some j => simp [decodePacket_of_some h]

theorem exists_decodePacket_iff {op : Byte} {ops : List Byte} :
    (∃ i, decodePacket (op :: ops) = .ok i) ↔ assignedLen op = some (ops.length + 1) := by
  simp only [decodePacket_eq_ok_iff]
  exact ⟨fun ⟨_, h⟩ => assignedLen_of_decodeOperands h, exists_decodeOperands⟩

theorem decodePacket_of_reserved {op : Byte} (ops : List Byte) (h : reservedOpcode op = true) :
    decodePacket (op :: ops) = .error (.reserved op) := by
  rw [decodePacket_of_none (decodeOperands_of_reserved ops h), if_pos h]

/-- Settles O4, from the one length each assigned opcode has. -/
theorem packetDecodesExactlyAtItsLength : Obligations.PacketDecodesExactlyAtItsLength := by
  intro op ops
  refine ⟨exists_decodePacket_iff.trans assignedLen_eq_some_iff, decodePacket_of_reserved ops, fun ha hlen => ?_⟩
  have hnone : decodeOperands op.toNat ops = none := by
    refine Option.eq_none_iff_forall_ne_some.2 fun i hi => ?_
    obtain ⟨-, hlen'⟩ := assignedLen_eq_some_iff.1 (assignedLen_of_decodeOperands hi)
    exact hlen hlen'
  simp [decodePacket_of_none hnone, ha]

/-! ## The decoder and the encoder are inverse -/

/-- A stream whose first packet decodes is cut behind that packet. -/
theorem decode_of_take {op : Byte} {bs : List Byte} {i : Instr}
    (h : decodePacket ((op :: bs).take (packetLen op)) = .ok i) :
    decode (op :: bs) = .ok (i, (op :: bs).drop (packetLen op)) := by
  simp only [decode, h]

/-- Settles O1: the stream is cut where the command's packet ends, and that packet decodes to the command. -/
theorem decodeOfEncodeIsTheCommand : Obligations.DecodeOfEncodeIsTheCommand := by
  intro i rest
  obtain ⟨-, hlen, -⟩ := packetShape i
  have htake : (encode i ++ rest).take (packetLen (opcodeOf i)) = encode i := List.take_left' hlen
  have hdrop : (encode i ++ rest).drop (packetLen (opcodeOf i)) = rest := List.drop_left' hlen
  calc decode (encode i ++ rest)
      = .ok (i, (encode i ++ rest).drop (packetLen (opcodeOf i))) :=
        decode_of_take ((congrArg decodePacket htake).trans (decodePacket_encode i))
    _ = .ok (i, rest) := by rw [hdrop]

/-- Settles O2: a packet that decodes has an assigned opcode, and is then its command's packet. -/
theorem encodeOfDecodeIsThePacket : Obligations.EncodeOfDecodeIsThePacket := by
  intro p i h
  cases p with
  | nil => cases h
  | cons op ops =>
    obtain ⟨ha, -⟩ := assignedLen_eq_some_iff.1 (exists_decodePacket_iff.1 ⟨i, h⟩)
    exact encode_of_decodePacket ha h

/-! ## Where the fields stand -/

theorem toNat_append_byte {w : Nat} (x : BitVec w) (b : Byte) : (x ++ b).toNat = x.toNat * 2 ^ 8 + b.toNat := by
  rw [BitVec.toNat_append, ← Nat.shiftLeft_add_eq_or_of_lt b.isLt, Nat.shiftLeft_eq]

/-- A `u16` field as a number (R74). -/
theorem le16_eq_ofNat (b0 b1 : Byte) : le16 b0 b1 = BitVec.ofNat 16 (b0.toNat + b1.toNat * 2 ^ 8) := by
  have hval : (le16 b0 b1).toNat = b0.toNat + b1.toNat * 2 ^ 8 := (toNat_append_byte b1 b0).trans (Nat.add_comm _ _)
  rw [← hval, BitVec.ofNat_toNat, BitVec.setWidth_eq]

/-- A `u32` field as a number (R74). -/
theorem le32_eq_ofNat (b0 b1 b2 b3 : Byte) :
    le32 b0 b1 b2 b3 = BitVec.ofNat 32 (b0.toNat + b1.toNat * 2 ^ 8 + b2.toNat * 2 ^ 16 + b3.toNat * 2 ^ 24) := by
  have hval : (le32 b0 b1 b2 b3).toNat = b0.toNat + b1.toNat * 2 ^ 8 + b2.toNat * 2 ^ 16 + b3.toNat * 2 ^ 24 := by
    have h2 := toNat_append_byte b3 b2
    have h1 := toNat_append_byte (b3 ++ b2) b1
    have h0 := toNat_append_byte (b3 ++ b2 ++ b1) b0
    unfold le32
    omega
  rw [← hval, BitVec.ofNat_toNat, BitVec.setWidth_eq]

/-- Settles O3: with the fields written as `le16` and `le32`, each packet is read off its row. -/
theorem packetFieldsStandAsListed : Obligations.PacketFieldsStandAsListed := by
  refine ⟨rfl, rfl, rfl, fun a b c d e f g h i j k => ?_⟩
  simp only [← le16_eq_ofNat, ← le32_eq_ofNat]
  and_intros <;> rfl

/-- Settles O5: the six packets are rows of R77 with the examples' bytes. -/
theorem specPacketsDecodeAsWritten : Obligations.SpecPacketsDecodeAsWritten := by
  unfold Obligations.SpecPacketsDecodeAsWritten
  decide

end Sys2Proof

namespace Sys2Proof.Machine

/-! ## A reserved byte at the port -/

/-- A free port takes the packet byte the host writes. -/
theorem State.PortOpen.step_writeByte {s : State} (h : s.PortOpen) (b : Byte) (ms : List Input) :
    step { s with inputs := writeByte b :: ms } = cmdWrite b { s with inputs := ms } := by
  have hstep := State.PortOpen.step_write (s := { s with inputs := writeByte b :: ms }) { h with } rfl
  rwa [extractLsb'_zeroExtend] at hstep

theorem packetComplete_reserved {op : Byte} (h : reservedOpcode op = true) : packetComplete [op] = true := by
  simp [packetComplete_cons, packetLen_of_reserved h]

theorem executePacket_reserved {op : Byte} (h : reservedOpcode op = true) (s : State) :
    executePacket [op] s = .next { s with last := .illegal, result := 0x00#8, busy := false } := by
  rw [executePacket, decodePacket_of_reserved [] h]
  rfl

/-- Settles O9: a reserved byte is a whole packet and no command, and the idle port had nothing else to clear. -/
theorem reservedByteCompletesIllegal : Obligations.ReservedByteCompletesIllegal := by
  refine ⟨reservedOpcode_iff, fun s op ms hopen hpkt hr => ?_⟩
  have hwhole : s.pkt ++ [op] = [op] := by rw [hpkt, List.nil_append]
  have hcomplete : packetComplete (s.pkt ++ [op]) = true := by rw [hwhole]; exact packetComplete_reserved hr
  rw [hopen.step_writeByte, cmdWrite_executes (s := { s with inputs := ms }) hopen.idle hcomplete, hwhole,
    executePacket_reserved hr]
  simp [hpkt, hopen.idle]

end Sys2Proof.Machine
end

section
/-! PROOFS. The framebuffer store (40_framebuffer.md): the laws of `plot` (R101), FILL (R102), LOAD (R104) and
PIXEL (R106). -/

namespace Sys2Proof.Machine

/-! ## Plot -/

/-- A point that `plot` does not discard is a pixel of the panel. -/
theorem exists_pixel_of_inBounds {cfg : Config} {p : Point} (h : inBounds cfg p = true) :
    ∃ x y : Nat, x < cfg.width ∧ y < cfg.height ∧ p = ⟨x, y⟩ := by
  obtain ⟨hx, hxw, hy, hyh⟩ := (inBounds_iff cfg p).1 h
  obtain ⟨px, py⟩ := p
  lift px to Nat using hx
  lift py to Nat using hy
  exact ⟨px, py, Int.ofNat_lt.1 hxw, Int.ofNat_lt.1 hyh, rfl⟩

theorem plot_of_not_inBounds {cfg : Config} {p : Point} (c : Color) (fb : List Byte) (h : inBounds cfg p = false) :
    plot cfg c p fb = fb := by
  simp [plot, h]

section
variable {cfg : Config} {fb : List Byte} (hc : cfg.wf = true) (hl : fb.length = cfg.bufSize)
include hc hl

/-- What two plots leave in a pixel: the later plot decides. -/
theorem pixel_plot_plot (c d : Color) (p q : Point) {x y : Nat} (hx : x < cfg.width) (hy : y < cfg.height) :
    pixel cfg (plot cfg c p (plot cfg d q fb)) x y =
      if p = ⟨x, y⟩ then c.isOn else if q = ⟨x, y⟩ then d.isOn else pixel cfg fb x y := by
  rw [pixel_plot hc ((plot_length ..).trans hl) c p hx hy, pixel_plot hc hl d q hx hy]

/-- A plot hides an earlier one of its own point. -/
theorem plot_plot_same (c d : Color) (p : Point) : plot cfg c p (plot cfg d p fb) = plot cfg c p fb := by
  refine fb_eq_of_pixels hc (by simpa using hl) (by simpa using hl) fun x y hx hy => ?_
  rw [pixel_plot_plot hc hl c d p p hx hy, pixel_plot hc hl c p hx hy]
  by_cases hp : p = ⟨x, y⟩
  · rw [if_pos hp, if_pos hp]
  · rw [if_neg hp, if_neg hp, if_neg hp]

theorem plot_comm (c d : Color) {p q : Point} (hpq : p ≠ q) :
    plot cfg c p (plot cfg d q fb) = plot cfg d q (plot cfg c p fb) := by
  refine fb_eq_of_pixels hc (by simpa using hl) (by simpa using hl) fun x y hx hy => ?_
  rw [pixel_plot_plot hc hl c d p q hx hy, pixel_plot_plot hc hl d c q p hx hy]
  by_cases hp : p = ⟨x, y⟩
  · have hq : q ≠ ⟨x, y⟩ := fun hq => hpq (hp.trans hq.symm)
    rw [if_pos hp, if_neg hq, if_pos hp]
  · rw [if_neg hp, if_neg hp]

/-- An in-bounds pixel holds the colour it was last plotted in. -/
theorem pixel_plot_self (c : Color) {p : Point} (hp : inBounds cfg p = true) :
    pixel cfg (plot cfg c p fb) p.x.toNat p.y.toNat = c.isOn := by
  obtain ⟨x, y, hx, hy, rfl⟩ := exists_pixel_of_inBounds hp
  exact (pixel_plot hc hl c _ hx hy).trans (if_pos rfl)

end

/-- Settles O26: buffers are compared pixel by pixel, and a pixel holds the colour of the last plot of its point. -/
theorem plotObeysItsLaws : Obligations.PlotObeysItsLaws := by
  intro cfg fb p q c d hc hl
  refine ⟨plot_plot_same hc hl c c p, plot_comm hc hl c d, ?cleared, plot_of_not_inBounds c fb, fun x y hx hy => ?onePixel⟩
  case cleared => exact pixel_plot_self hc ((plot_length ..).trans hl) .off
  case onePixel =>
    rw [pixel_plot hc hl c p hx hy]
    simp only [eq_comm]

/-! ## FILL and PIXEL -/

theorem fillByte_getLsbD (c : Color) {k : Nat} (hk : k < 8) : (fillByte c).getLsbD k = c.isOn := by
  cases c with
  | off => exact BitVec.getLsbD_zero
  | on => exact (BitVec.getLsbD_allOnes (v := 8)).trans (decide_eq_true hk)

theorem pixel_replicate {cfg : Config} (hc : cfg.wf = true) (b : Byte) {x y : Nat} (hx : x < cfg.width)
    (hy : y < cfg.height) : pixel cfg (List.replicate cfg.bufSize b) x y = b.getLsbD (y % 8) := by
  rw [pixel, List.getD_replicate _ (fbIndex_lt hc hx hy)]

theorem exec_fill {s : State} {c : Byte} (hs : s.session = .ready) (hw : (Instr.fill c).wf = true) :
    exec (.fill c) s =
      .next ((s.begin.withFb (List.replicate s.cfg.bufSize (fillByte (colorOf c)))).complete .ok 0x00#8) := by
  rw [exec, execFill, execute_body ((colLegal_eq_wfCol c).trans hw) hs]
  rfl

/-- Settles O27: every bit of the byte FILL stores is the colour's. -/
theorem fillSetsEveryByte : Obligations.FillSetsEveryByte := by
  refine ⟨fun s c hs hw => ⟨_, exec_fill hs.session hw, ⟨⟨rfl, ?size⟩, ?inside, ?outside⟩, ?on, ?off⟩, rfl, rfl, rfl, rfl⟩
  case size => exact List.length_replicate.trans hs.fbSize.symm
  case inside =>
    intro x y hx hy _
    exact (pixel_replicate hs.cfgLegal _ hx hy).trans (fillByte_getLsbD _ (Nat.mod_lt y (by decide)))
  case outside => exact fun x y _ _ hout => absurd trivial hout
  case on => rintro rfl; rfl
  case off => rintro rfl; rfl

/-- Settles O29: PIXEL paints the list of its one point. -/
theorem pixelSetsOnePixel : Obligations.PixelSetsOnePixel := by
  intro s x y c hs hw
  obtain ⟨t, hexec, hpaint⟩ := execute_paintAll (op := 0x10#8) (colorOf c) [pointOf x y] ((colLegal_eq_wfCol c).trans hw) hs
  exact ⟨t, hexec, hpaint.congr fun px py _ _ => by simp [pointOf]⟩

/-! ## Commands that read source memory -/

theorem srcRead_of_not_readable {m : Memory} {a : Nat} (h : ¬ Readable m a) : srcRead m a = .error a := by
  cases hr : srcRead m a with
  | ok b => exact absurd ⟨b, hr⟩ h
  | error e => rw [srcRead_eq_error hr]

/-- A loop over `0` to `n - 1` whose first iteration to fault is `k` ends with that fault. -/
theorem forEach_range_fault {α : Type} {f : Nat → α → Fetched α} {g : Nat → α → α} {n k a : Nat} (hk : k < n)
    (hdone : ∀ j < k, ∀ v, f j v = .done (g j v)) (hfault : ∀ v, f k v = .fault v a) (v : α) :
    forEach f (List.range n) v = .fault ((List.range k).foldl (fun v j => g j v) v) a := by
  obtain ⟨m, rfl⟩ := Nat.exists_eq_add_of_lt hk
  have hsplit : List.range (k + m + 1) = List.range k ++ k :: (List.range m).map (k + 1 + ·) := by
    rw [Nat.add_right_comm, List.range_add, List.range_succ, List.append_assoc, List.singleton_append]
  rw [hsplit, forEach_fault _ k _ (fun j hj => hdone j (List.mem_range.1 hj)), hfault]

/-- A part that has read all its bytes ends the command OK with the framebuffer it reached. -/
theorem endFetch_done_completed {s : State} {fb : List Byte} (hl : fb.length = s.fb.length) :
    FbCompleted .ok 0x00#8 s (s.begin.endFetch (.done fb)) :=
  ⟨rfl, hl⟩

/-- A part that faults ends the command in its `SrcFault`. -/
theorem endFetch_fault_srcFaulted {s : State} {fb : List Byte} (a : Nat) (hl : fb.length = s.fb.length) :
    SrcFaulted a s (s.begin.endFetch (.fault fb a)) :=
  ⟨rfl, hl⟩

/-! ## LOAD -/

/-- The framebuffer with its first `len` bytes taken from an image (R104). -/
def storeImage (img : Nat → Byte) (len : Nat) (fb : List Byte) : List Byte :=
  (List.range len).foldl (fun fb k => fb.set k (img k)) fb

theorem storeImage_succ (img : Nat → Byte) (len : Nat) (fb : List Byte) :
    storeImage img (len + 1) fb = (storeImage img len fb).set len (img len) := by
  simp [storeImage, List.range_succ]

@[simp] theorem storeImage_length (img : Nat → Byte) (len : Nat) (fb : List Byte) :
    (storeImage img len fb).length = fb.length := by
  induction len with
  | zero => rfl
  | succ len ih => rw [storeImage_succ, List.length_set, ih]

theorem storeImage_getElem? (img : Nat → Byte) (len : Nat) {fb : List Byte} {k : Nat} (hk : k < fb.length) :
    (storeImage img len fb)[k]? = if k < len then some (img k) else fb[k]? := by
  induction len with
  | zero => rfl
  | succ len ih =>
    rw [storeImage_succ, List.getElem?_set, storeImage_length, ih]
    obtain hlt | rfl | hgt := Nat.lt_trichotomy k len
    · simp [hlt, hlt.ne', Nat.lt_succ_of_lt hlt]
    · simp [hk]
    · simp [hgt.ne, Nat.not_lt_of_gt hgt, Nat.not_lt.2 hgt]

theorem readByte_ok {α : Type} {m : Memory} {a : Nat} {b : Byte} (h : srcRead m a = .ok b) (v : α)
    (k : Byte → Fetched α) : readByte m a v k = k b := by
  simp [readByte, h]

theorem readByte_error {α : Type} {m : Memory} {a e : Nat} (h : srcRead m a = .error e) (v : α)
    (k : Byte → Fetched α) : readByte m a v k = .fault v e := by
  simp [readByte, h]

theorem loadBytes_done {src : Memory} {addr len : Nat} {img : Nat → Byte}
    (h : ∀ k < len, srcRead src (addr + k) = .ok (img k)) (fb : List Byte) :
    loadBytes src addr len fb = .done (storeImage img len fb) := by
  unfold loadBytes
  refine forEach_done (g := fun k fb => fb.set k (img k)) _ (fun k hk fb => ?_) fb
  exact readByte_ok (h k (List.mem_range.1 hk)) fb _

/-- A copy stops at the first byte that is not readable, with the bytes before it stored. -/
theorem loadBytes_fault {src : Memory} {addr len k : Nat} (h : FirstUnreadable src addr len k) (fb : List Byte) :
    ∃ img : Nat → Byte, (∀ j < k, srcRead src (addr + j) = .ok (img j)) ∧
      loadBytes src addr len fb = .fault (storeImage img k fb) (addr + k) := by
  obtain ⟨hk, hread, hbad⟩ := h
  choose! img himg using (hread : ∀ j < k, ∃ b, srcRead src (addr + j) = .ok b)
  unfold loadBytes
  refine ⟨img, himg, forEach_range_fault (g := fun j fb => fb.set j (img j)) hk (fun j hj fb => ?read) (fun fb => ?fault) fb⟩
  case read => exact readByte_ok (himg j hj) fb _
  case fault => exact readByte_error (srcRead_of_not_readable hbad) fb _

/-- A LOAD that is too long completes SIZE_ERROR before anything is read (60_exceptions.md R252). -/
theorem exec_load_tooLong {s : State} (addr : Word) {len : Half} (hs : s.session = .ready)
    (hlen : s.cfg.bufSize < len.toNat) :
    exec (.load addr len) s = .next { s with last := .sizeError, result := 0x00#8, busy := false } := by
  rw [exec, execLoad, execute_body rfl hs, State.begin_cfg, if_pos hlen]
  rfl

theorem exec_load_fits {s : State} (addr : Word) {len : Half} (hs : s.session = .ready)
    (hlen : len.toNat ≤ s.cfg.bufSize) :
    exec (.load addr len) s = .next (s.begin.endFetch (loadBytes s.src addr.toNat len.toNat s.fb)) := by
  rw [exec, execLoad, execute_body rfl hs, State.begin_cfg, if_neg (Nat.not_lt.2 hlen), State.begin_src, State.begin_fb]

/-- Settles O28: a LOAD that fits ends as its copy does. -/
theorem loadCopiesTheImage : Obligations.LoadCopiesTheImage := by
  refine fun s addr len hs => ⟨exec_load_tooLong addr hs.session, fun hlen => ?_⟩
  rw [exec_load_fits addr hs.session hlen]
  refine ⟨fun img himg => ⟨_, rfl, ?copied⟩, fun k hk => ⟨_, rfl, ?faulted⟩⟩
  case copied =>
    rw [loadBytes_done himg]
    exact ⟨endFetch_done_completed (storeImage_length ..), fun k hk => storeImage_getElem? img _ (hs.fbSize ▸ hk)⟩
  case faulted =>
    obtain ⟨img, -, hload⟩ := loadBytes_fault hk s.fb
    rw [hload]
    exact endFetch_fault_srcFaulted _ (storeImage_length ..)

end Sys2Proof.Machine
end

section
/-! PROOFS. Lines (41_lines.md): the loop of `LinePts` steps its major axis once a pass and ends at the end point
(R122); LINE (R121), POLYLINE (R124) and RECT (R126) paint what their lines hold. -/

namespace Sys2Proof.Machine

/-! ## One pass of the loop (R120) -/

/-- The point after one pass of the loop of `LinePts`. -/
def nextPoint (dx dy sx sy : Int) (p : Point) (err : Int) : Point :=
  ⟨if 2 * err > -dy then p.x + sx else p.x, if 2 * err < dx then p.y + sy else p.y⟩

/-- The error after one pass of the loop of `LinePts`. -/
def nextErr (dx dy err : Int) : Int :=
  if 2 * err < dx then (if 2 * err > -dy then err - dy else err) + dx else if 2 * err > -dy then err - dy else err

theorem lineLoop_succ {q p : Point} (hpq : p ≠ q) (dx dy sx sy : Int) (n : Nat) (err : Int) :
    lineLoop q dx dy sx sy (n + 1) p err =
      p :: lineLoop q dx dy sx sy n (nextPoint dx dy sx sy p err) (nextErr dx dy err) := by
  rw [lineLoop, if_neg hpq]
  rfl

theorem lineLoop_self (q : Point) (dx dy sx sy : Int) (n : Nat) (err : Int) : lineLoop q dx dy sx sy n q err = [] := by
  cases n with
  | zero => rfl
  | succ n => rw [lineLoop, if_pos rfl]

theorem linePts_self (p : Point) : linePts p p = [p] := by
  rw [linePts, lineLoop_self]

/-! ## The loop treats its axes alike -/

/-- A point with its axes exchanged. -/
def Point.swap (p : Point) : Point := ⟨p.y, p.x⟩

theorem Point.ext {p q : Point} (hx : p.x = q.x) (hy : p.y = q.y) : p = q := by
  cases p; cases q
  exact congrArg₂ Point.mk hx hy

@[simp] theorem Point.swap_x (p : Point) : p.swap.x = p.y := rfl
@[simp] theorem Point.swap_y (p : Point) : p.swap.y = p.x := rfl
@[simp] theorem Point.swap_swap (p : Point) : p.swap.swap = p := rfl

theorem Point.map_swap_swap (pts : List Point) : (pts.map Point.swap).map Point.swap = pts :=
  (List.map_map ..).trans (List.map_id pts)

theorem Point.swap_injective : Function.Injective Point.swap :=
  Function.LeftInverse.injective Point.swap_swap

theorem nextPoint_swap (dx dy sx sy : Int) (p : Point) (err : Int) :
    nextPoint dy dx sy sx p.swap (-err) = (nextPoint dx dy sx sy p err).swap := by
  have hx : 2 * -err > -dx ↔ 2 * err < dx := by omega
  have hy : 2 * -err < dy ↔ 2 * err > -dy := by omega
  simp only [nextPoint, Point.swap, hx, hy]

theorem nextErr_swap (dx dy err : Int) : nextErr dy dx (-err) = -nextErr dx dy err := by
  unfold nextErr
  split_ifs <;> omega

theorem lineLoop_swap (q : Point) (dx dy sx sy : Int) (n : Nat) (p : Point) (err : Int) :
    lineLoop q.swap dy dx sy sx n p.swap (-err) = (lineLoop q dx dy sx sy n p err).map Point.swap := by
  induction n generalizing p err with
  | zero => rfl
  | succ n ih =>
    by_cases hpq : p = q
    · rw [hpq, lineLoop_self, lineLoop_self, List.map_nil]
    · rw [lineLoop_succ hpq, lineLoop_succ (Point.swap_injective.ne hpq), nextPoint_swap, nextErr_swap, ih, List.map_cons]

/-- A line with its axes exchanged is the line of the exchanged endpoints. -/
theorem linePts_swap (p q : Point) : linePts p.swap q.swap = (linePts p q).map Point.swap := by
  simp only [linePts, List.map_cons, ← lineLoop_swap, Point.swap_x, Point.swap_y, neg_sub, Nat.max_comm]
  rfl

/-! ## The loop on a line that is at least as wide as it is high -/

/-- What holds before each pass on a line with `dy ≤ dx`, `n` columns before the end point: every pass steps `x`, so the
error is known from the rows that are left (`balance`), and it stays within bounds that force the step and, at `n = 0`,
leave no row. -/
structure XMajor (q : Point) (dx dy sx sy : Int) (n : Nat) (p : Point) (err : Int) : Prop where
  wide : 0 < dx
  high : 0 ≤ dy
  shallow : dy ≤ dx
  unitX : sx = 1 ∨ sx = -1
  unitY : sy = 1 ∨ sy = -1
  columns : q.x = p.x + sx * n
  balance : err = dx - dy + n * dy - sy * (q.y - p.y) * dx
  lower : -dy < 2 * err
  upper : 2 * err < 3 * dx - 2 * dy

section
variable {q p : Point} {dx dy sx sy err : Int} {n : Nat}

theorem XMajor.ne (h : XMajor q dx dy sx sy (n + 1) p err) : p ≠ q := by
  rintro rfl
  obtain hx | hx := h.unitX <;> have := h.columns <;> simp only [hx] at this <;> omega

/-- With no column left, the bounds on the error leave no row either. -/
theorem XMajor.eq_of_zero (h : XMajor q dx dy sx sy 0 p err) : p = q := by
  have hx : p.x = q.x := by simpa using h.columns.symm
  obtain ⟨hwide, hhigh, -, -, hunit, -, hbalance, hlower, hupper⟩ := h
  have hrows : sy * (q.y - p.y) = 0 := by
    generalize sy * (q.y - p.y) = rows at hbalance
    rw [Nat.cast_zero, zero_mul, add_zero] at hbalance
    have hlt : rows < 1 := by nlinarith
    have hgt : -1 < rows := by nlinarith
    omega
  have hy : p.y = q.y := by
    obtain rfl | rfl := hunit <;> omega
  exact Point.ext hx hy

theorem XMajor.nextPoint_x (h : XMajor q dx dy sx sy n p err) : (nextPoint dx dy sx sy p err).x = p.x + sx :=
  if_pos h.lower

theorem nextPoint_y_near (hsy : sy = 1 ∨ sy = -1) : ((nextPoint dx dy sx sy p err).y - p.y).natAbs ≤ 1 := by
  unfold nextPoint
  dsimp only
  split_ifs <;> omega

/-- A pass keeps the invariant, with one column fewer left. -/
theorem XMajor.next (h : XMajor q dx dy sx sy (n + 1) p err) :
    XMajor q dx dy sx sy n (nextPoint dx dy sx sy p err) (nextErr dx dy err) := by
  have hcolumns := h.nextPoint_x
  obtain ⟨hwide, hhigh, hshallow, hunitX, hunit, hcol, hbalance, hlower, hupper⟩ := h
  have hcol' : q.x = (nextPoint dx dy sx sy p err).x + sx * n := by
    rw [hcolumns, hcol]; push_cast; ring
  push_cast at hbalance
  by_cases hrow : 2 * err < dx
  · have herr : nextErr dx dy err = err - dy + dx := by simp only [nextErr, if_pos hrow, if_pos hlower]
    have hy : (nextPoint dx dy sx sy p err).y = p.y + sy := if_pos hrow
    have hsq : sy * sy = 1 := by obtain rfl | rfl := hunit <;> rfl
    refine ⟨hwide, hhigh, hshallow, hunitX, hunit, hcol', ?balance, ?lower, ?upper⟩
    case balance => rw [herr, hy]; linear_combination hbalance - dx * hsq
    case lower => omega
    case upper => omega
  · have herr : nextErr dx dy err = err - dy := by simp only [nextErr, if_neg hrow, if_pos hlower]
    have hy : (nextPoint dx dy sx sy p err).y = p.y := if_neg hrow
    refine ⟨hwide, hhigh, hshallow, hunitX, hunit, hcol', ?balance, ?lower, ?upper⟩
    case balance => rw [herr, hy]; linear_combination hbalance
    case lower => omega
    case upper => omega

theorem XMajor.lineLoop_succ (h : XMajor q dx dy sx sy (n + 1) p err) :
    lineLoop q dx dy sx sy (n + 1) p err =
      p :: lineLoop q dx dy sx sy n (nextPoint dx dy sx sy p err) (nextErr dx dy err) :=
  Machine.lineLoop_succ h.ne ..

theorem XMajor.length_lineLoop (h : XMajor q dx dy sx sy n p err) : (lineLoop q dx dy sx sy n p err).length = n := by
  induction n generalizing p err with
  | zero => rfl
  | succ n ih => rw [h.lineLoop_succ, List.length_cons, ih h.next]

/-- The loop starts at its own point, or has none left and stands at the end point. -/
theorem XMajor.head?_lineLoop (h : XMajor q dx dy sx sy n p err) :
    (lineLoop q dx dy sx sy n p err ++ [q]).head? = some p := by
  cases n with
  | zero => rw [h.eq_of_zero]; rfl
  | succ n => rw [h.lineLoop_succ]; rfl

/-- Every point is one column on from the one before it, and at most one row away. -/
theorem XMajor.isChain_lineLoop (h : XMajor q dx dy sx sy n p err) :
    (lineLoop q dx dy sx sy n p err ++ [q]).IsChain (fun a b => b.x = a.x + sx ∧ (b.y - a.y).natAbs ≤ 1) := by
  induction n generalizing p err with
  | zero => exact .singleton q
  | succ n ih =>
    rw [h.lineLoop_succ, List.cons_append, List.isChain_cons, h.next.head?_lineLoop]
    refine ⟨?_, ih h.next⟩
    rintro _ ⟨⟩
    exact ⟨h.nextPoint_x, nextPoint_y_near h.unitY⟩

/-- The invariant holds at the first point of a line of two points or more. -/
theorem xMajor_start (hpq : p ≠ q) (hshallow : (q.y - p.y).natAbs ≤ (q.x - p.x).natAbs) :
    XMajor q (q.x - p.x).natAbs (q.y - p.y).natAbs (if p.x < q.x then 1 else -1) (if p.y < q.y then 1 else -1)
      (q.x - p.x).natAbs p ((q.x - p.x).natAbs - (q.y - p.y).natAbs) := by
  have hwide : 0 < (q.x - p.x).natAbs := by
    by_contra h
    exact hpq (Point.ext (by omega) (by omega))
  have hrows : (if p.y < q.y then 1 else -1) * (q.y - p.y) = ((q.y - p.y).natAbs : Int) := by
    split_ifs <;> omega
  refine ⟨by omega, by omega, by omega, ?unitX, ?unitY, ?columns, ?balance, by omega, by omega⟩
  case unitX => exact ite_eq_or_eq ..
  case unitY => exact ite_eq_or_eq ..
  case columns => split_ifs <;> omega
  case balance => rw [hrows]; ring

end

/-! ## The line as a path from its first point to its last -/

/-- What R122 (a) to (c) say of the points from `p` to `q` in the order of the loop. -/
structure LinePath (p q : Point) (path : List Point) : Prop where
  first : path.head? = some p
  nodup : path.Nodup
  length : path.length = max (q.x - p.x).natAbs (q.y - p.y).natAbs + 1
  connected : path.IsChain (fun a b => (b.x - a.x).natAbs ≤ 1 ∧ (b.y - a.y).natAbs ≤ 1)

theorem LinePath.swap {p q : Point} {path : List Point} (h : LinePath p q path) :
    LinePath p.swap q.swap (path.map Point.swap) where
  first := by rw [List.head?_map, h.first]; rfl
  nodup := h.nodup.map Point.swap_injective
  length := by rw [List.length_map, h.length, Nat.max_comm]; rfl
  connected := List.isChain_map_of_isChain _ (fun _ _ hab => hab.symm) h.connected

/-- A path that steps one column in one direction at each point meets no point twice. -/
theorem nodup_of_isChain_columns {sx : Int} (hsx : sx = 1 ∨ sx = -1) {path : List Point}
    (h : path.IsChain (fun a b => b.x = a.x + sx ∧ (b.y - a.y).natAbs ≤ 1)) : path.Nodup := by
  have hsq : sx * sx = 1 := by obtain rfl | rfl := hsx <;> rfl
  have hcols : (path.map fun a => sx * a.x).IsChain (· < ·) :=
    List.isChain_map_of_isChain _ (fun a b hab => by rw [hab.1, mul_add, hsq]; exact Int.lt_succ _) h
  exact .of_map _ (hcols.pairwise.imp ne_of_lt)

theorem linePath_of_shallow {p q : Point} (hpq : p ≠ q) (hshallow : (q.y - p.y).natAbs ≤ (q.x - p.x).natAbs) :
    LinePath p q ((linePts p q).tail ++ [q]) := by
  have h := xMajor_start hpq hshallow
  rw [linePts, List.tail_cons, Nat.max_eq_left hshallow]
  refine ⟨h.head?_lineLoop, nodup_of_isChain_columns h.unitX h.isChain_lineLoop, ?length, ?connected⟩
  case length => rw [List.length_append, h.length_lineLoop, Nat.max_eq_left hshallow]; rfl
  case connected =>
    refine h.isChain_lineLoop.imp fun a b hab => ⟨?_, hab.2⟩
    obtain hx | hx := h.unitX <;> omega

/-- The points of the loop and then the end point are a path: on a line that is higher than wide, the exchanged path. -/
theorem linePath_linePts (p q : Point) : LinePath p q ((linePts p q).tail ++ [q]) := by
  by_cases hpq : p = q
  · subst hpq
    rw [linePts_self]
    exact ⟨rfl, List.nodup_singleton p, by simp, .singleton p⟩
  · obtain hshallow | hsteep := Nat.le_total (q.y - p.y).natAbs (q.x - p.x).natAbs
    · exact linePath_of_shallow hpq hshallow
    · have h := (linePath_of_shallow (Point.swap_injective.ne hpq) hsteep).swap
      rwa [linePts_swap, ← List.map_tail, List.map_append, Point.map_swap_swap] at h

theorem linePts_perm_path (p q : Point) : List.Perm (linePts p q) ((linePts p q).tail ++ [q]) :=
  (List.perm_append_singleton q _).symm

/-- Settles O30: the loop and its end point are a path, and the line from (0, 0) to (1, 2) differs from the line back. -/
theorem linePointsHaveTheListedProperties : Obligations.LinePointsHaveTheListedProperties := by
  refine ⟨⟨⟨0, 0⟩, ⟨1, 2⟩, ⟨0, 1⟩, by decide, by decide⟩, fun p q => ?_⟩
  have hpath := linePath_linePts p q
  have hperm := linePts_perm_path p q
  exact ⟨hperm.mem_iff.2 (List.mem_of_head? hpath.first), List.mem_cons_self, hperm.nodup_iff.2 hpath.nodup,
    hperm.length_eq.trans hpath.length, hpath.connected, linePts_self p⟩

/-! ## LINE (R121) -/

/-- Settles O31: LINE paints the list of its points. -/
theorem linePaintsItsPoints : Obligations.LinePaintsItsPoints :=
  fun _ x1 y1 x2 y2 c hs hw =>
    execute_paintAll (op := 0x11#8) (colorOf c) (linePts (pointOf x1 y1) (pointOf x2 y2)) ((colLegal_eq_wfCol c).trans hw) hs

/-! ## RECT (R126) -/

/-- On a row the error never changes, so the loop steps one column a pass and stays on the row. -/
theorem lineLoop_row {dx sx : Int} (hdx : 0 < dx) (hsx : sx = 1 ∨ sx = -1) (sy y : Int) (n : Nat) (x : Int) :
    lineLoop ⟨x + sx * n, y⟩ dx 0 sx sy n ⟨x, y⟩ dx = (List.range n).map fun k : Nat => ⟨x + sx * k, y⟩ := by
  induction n generalizing x with
  | zero => rfl
  | succ n ih =>
    have hne : (⟨x, y⟩ : Point) ≠ ⟨x + sx * (n + 1 : Nat), y⟩ := by
      obtain rfl | rfl := hsx <;> simp only [ne_eq, Point.mk.injEq] <;> omega
    have hpoint : nextPoint dx 0 sx sy ⟨x, y⟩ dx = ⟨x + sx, y⟩ := by
      rw [nextPoint, if_pos (by omega), if_neg (by omega)]
    have herr : nextErr dx 0 dx = dx := by
      rw [nextErr, if_neg (by omega), if_pos (by omega), Int.sub_zero]
    have hend : x + sx * (n + 1 : Nat) = x + sx + sx * n := by push_cast; ring
    rw [lineLoop_succ hne, hpoint, herr, hend, ih, List.range_succ_eq_map, List.map_cons, List.map_map]
    congr 1
    · simp
    · refine List.map_congr_left fun k _ => Point.ext ?_ rfl
      simp only [Function.comp_apply]
      push_cast
      ring

theorem linePts_row (a b y : Int) :
    linePts ⟨a, y⟩ ⟨b, y⟩ =
      ⟨b, y⟩ :: (List.range (b - a).natAbs).map fun k : Nat => ⟨a + (if a < b then 1 else -1) * k, y⟩ := by
  obtain rfl | hab := eq_or_ne a b
  · rw [linePts_self, Int.sub_self]
    rfl
  · have hend : b = a + (if a < b then 1 else -1) * (b - a).natAbs := by split_ifs <;> omega
    have hloop := lineLoop_row (dx := (b - a).natAbs) (by omega) (ite_eq_or_eq (a < b) 1 (-1)) (-1) y (b - a).natAbs a
    rw [← hend] at hloop
    simp only [linePts, Int.sub_self, Int.natAbs_zero, Nat.max_zero, lt_self_iff_false, if_false, Nat.cast_zero, Int.sub_zero,
      hloop]

/-- A line along a row is every point of the row between its ends. -/
theorem mem_linePts_row {a b y : Int} {r : Point} :
    r ∈ linePts ⟨a, y⟩ ⟨b, y⟩ ↔ r.y = y ∧ min a b ≤ r.x ∧ r.x ≤ max a b := by
  obtain ⟨rx, ry⟩ := r
  simp only [linePts_row, List.mem_cons, List.mem_map, List.mem_range, Point.mk.injEq]
  constructor
  · rintro (⟨rfl, rfl⟩ | ⟨k, hk, rfl, rfl⟩)
    · omega
    · split_ifs <;> omega
  · rintro ⟨rfl, hmin, hmax⟩
    by_cases hend : rx = b
    · exact .inl ⟨hend, rfl⟩
    · refine .inr ⟨(rx - a).natAbs, by omega, ?_, rfl⟩
      split_ifs <;> omega

/-- A line along a column is every point of the column between its ends. -/
theorem mem_linePts_column {a b x : Int} {r : Point} :
    r ∈ linePts ⟨x, a⟩ ⟨x, b⟩ ↔ r.x = x ∧ min a b ≤ r.y ∧ r.y ≤ max a b := by
  have hswap : r ∈ linePts ⟨x, a⟩ ⟨x, b⟩ ↔ r.swap ∈ linePts ⟨a, x⟩ ⟨b, x⟩ := by
    rw [← List.mem_map_of_injective Point.swap_injective, ← linePts_swap]
    rfl
  exact hswap.trans mem_linePts_row

/-- The four edges of a rectangle are its points that lie on the row or the column of a corner. -/
theorem mem_rectPts {p q r : Point} :
    r ∈ rectPts p q ↔ min p.x q.x ≤ r.x ∧ r.x ≤ max p.x q.x ∧ min p.y q.y ≤ r.y ∧ r.y ≤ max p.y q.y ∧
      (r.x = p.x ∨ r.x = q.x ∨ r.y = p.y ∨ r.y = q.y) := by
  simp only [rectPts, List.mem_append, mem_linePts_row, mem_linePts_column]
  omega

/-- Settles O33: RECT paints the list of its four edges. -/
theorem rectPaintsTheOutline : Obligations.RectPaintsTheOutline := by
  intro s x1 y1 x2 y2 c hs hw
  obtain ⟨t, hexec, hpaint⟩ :=
    execute_paintAll (op := 0x13#8) (colorOf c) (rectPts (pointOf x1 y1) (pointOf x2 y2)) ((colLegal_eq_wfCol c).trans hw) hs
  refine ⟨t, hexec, hpaint.congr fun x y _ _ => mem_rectPts.trans ?_⟩
  simp only [pointOf]
  omega

/-! ## POLYLINE (R124) -/

/-- The points of a polyline: the line from each of the first `count` vertices to the next. -/
def polyPts (vertex : Nat → Point) (count : Nat) : List Point :=
  (List.range (count - 1)).flatMap fun k => linePts (vertex k) (vertex (k + 1))

theorem mem_polyPts {vertex : Nat → Point} {count : Nat} {r : Point} :
    r ∈ polyPts vertex count ↔ ∃ k, k + 1 < count ∧ r ∈ linePts (vertex k) (vertex (k + 1)) := by
  simp only [polyPts, List.mem_flatMap, List.mem_range, Nat.lt_sub_iff_add_lt]

theorem paint_flatMap {ι : Type} (cfg : Config) (c : Color) (pts : ι → List Point) (is : List ι) (fb : List Byte) :
    paint cfg c (is.flatMap pts) fb = is.foldl (fun fb i => paint cfg c (pts i) fb) fb :=
  List.foldl_flatMap ..

section
variable {src : Memory} {addr i : Nat}

theorem readVertex_ok {α : Type} {x y : Byte} (hx : srcRead src (addr + 2 * i) = .ok x)
    (hy : srcRead src (addr + 2 * i + 1) = .ok y) (v : α) (k : Point → Fetched α) :
    readVertex src addr i v k = k (pointOf x y) := by
  rw [readVertex, readByte_ok hx, readByte_ok hy]

/-- A vertex with a byte that is not admitted faults at the first such byte. -/
theorem readVertex_fault {α : Type} {j : Nat} (h : FirstUnreadable src (addr + 2 * i) 2 j) (v : α) (k : Point → Fetched α) :
    readVertex src addr i v k = .fault v (addr + 2 * i + j) := by
  obtain ⟨hj, hread, hbad⟩ := h
  have hbad := srcRead_of_not_readable hbad
  obtain rfl | rfl : j = 0 ∨ j = 1 := by omega
  · exact readByte_error hbad v _
  · obtain ⟨x, hx⟩ := hread 0 Nat.one_pos
    exact (readByte_ok hx v _).trans (readByte_error hbad v _)

end

theorem polySegments_done {src : Memory} {addr count : Nat} {vx vy : Nat → Byte}
    (h : ∀ k < count, srcRead src (addr + 2 * k) = .ok (vx k) ∧ srcRead src (addr + 2 * k + 1) = .ok (vy k))
    (cfg : Config) (c : Color) (fb : List Byte) :
    polySegments cfg c src addr count fb = .done (paint cfg c (polyPts (fun k => pointOf (vx k) (vy k)) count) fb) := by
  rw [polyPts, paint_flatMap]
  refine forEach_done _ (fun k hk fb => ?_) fb
  have hk : k + 1 < count := Nat.lt_sub_iff_add_lt.1 (List.mem_range.1 hk)
  obtain ⟨hx, hy⟩ := h k (Nat.lt_of_succ_lt hk)
  obtain ⟨hx', hy'⟩ := h (k + 1) hk
  rw [readVertex_ok hx hy, readVertex_ok hx' hy']

/-- Vertex `i` of a vertex list whose bytes are `byte` (R124). -/
def vertexOf (byte : Nat → Byte) (i : Nat) : Point := pointOf (byte (2 * i)) (byte (2 * i + 1))

/-- A polyline stops at the first vertex byte that is not admitted: byte `k` is of vertex `k / 2`, which the segment
that ends at it reads first (vertex 0: the segment that starts at it). -/
theorem polySegments_fault {src : Memory} {addr count k : Nat} (hcount : 2 ≤ count)
    (h : FirstUnreadable src addr (2 * count) k) (cfg : Config) (c : Color) (fb : List Byte) :
    ∃ fb', polySegments cfg c src addr count fb = .fault fb' (addr + k) := by
  obtain ⟨hk, hread, hbad⟩ := h
  choose! byte hbyte using (hread : ∀ j < k, ∃ b, srcRead src (addr + j) = .ok b)
  have hvertex {α : Type} {i : Nat} (hi : 2 * i + 1 < k) (v : α) (cont : Point → Fetched α) :
      readVertex src addr i v cont = cont (vertexOf byte i) :=
    readVertex_ok (hbyte _ (Nat.lt_of_succ_lt hi)) (hbyte _ hi) v cont
  have hfirst : FirstUnreadable src (addr + 2 * (k / 2)) 2 (k % 2) := by
    refine ⟨Nat.mod_lt k Nat.two_pos, fun j hj => ?_, ?_⟩
    · rw [Nat.add_assoc]
      exact ⟨_, hbyte _ (by omega)⟩
    · rwa [Nat.add_assoc, Nat.div_add_mod]
  have hfault {α : Type} (v : α) (cont : Point → Fetched α) : readVertex src addr (k / 2) v cont = .fault v (addr + k) := by
    rw [readVertex_fault hfirst, Nat.add_assoc, Nat.div_add_mod]
  refine ⟨_, forEach_range_fault (k := k / 2 - 1)
    (g := fun i fb => paint cfg c (linePts (vertexOf byte i) (vertexOf byte (i + 1))) fb)
    (by omega) (fun i hi fb => ?drawn) (fun fb => ?faulted) fb⟩
  case drawn => rw [hvertex (by omega), hvertex (by omega)]
  case faulted =>
    obtain hzero | hpos := Nat.eq_zero_or_pos (k / 2)
    · rw [hzero] at hfault ⊢
      exact hfault fb _
    · rw [hvertex (by omega), Nat.sub_add_cancel hpos, hfault]

theorem exec_polyline_noOp {s : State} {addr : Word} {count : Half} {c : Byte} (hs : s.session = .ready)
    (hw : (Instr.polyline addr count c).wf = true) (h : addr = 0 ∨ count.toNat < 2) :
    exec (.polyline addr count c) s = .next { s with last := .ok, result := 0x00#8, busy := false } := by
  have h : addr.toNat = 0 ∨ count.toNat < 2 := h.imp_left (congrArg BitVec.toNat)
  rw [exec, execPolyline, execute_body ((colLegal_eq_wfCol c).trans hw) hs, if_pos h]
  rfl

theorem exec_polyline_draws {s : State} {addr : Word} {count : Half} {c : Byte} (hs : s.session = .ready)
    (hw : (Instr.polyline addr count c).wf = true) (haddr : addr ≠ 0) (hcount : 2 ≤ count.toNat) :
    exec (.polyline addr count c) s =
      .next (s.begin.endFetch (polySegments s.cfg (colorOf c) s.src addr.toNat count.toNat s.fb)) := by
  have h : ¬ (addr.toNat = 0 ∨ count.toNat < 2) :=
    not_or.2 ⟨fun h => haddr (BitVec.eq_of_toNat_eq h), Nat.not_lt.2 hcount⟩
  rw [exec, execPolyline, execute_body ((colLegal_eq_wfCol c).trans hw) hs, if_neg h]
  rfl

/-- A part that has read all its bytes and painted a list of points has painted that list. -/
theorem endFetch_paint_paintedBy {s : State} (hs : s.CanRun) (c : Color) (pts : List Point) :
    PaintedBy c (fun x y => ⟨x, y⟩ ∈ pts) s (s.begin.endFetch (.done (paint s.cfg c pts s.fb))) := by
  obtain ⟨t, hexec, hpaint⟩ := execute_paintAll (op := 0x12#8) (legal := true) c pts rfl hs
  rw [execute_body rfl hs.session] at hexec
  cases hexec
  exact hpaint

/-- Settles O32: a POLYLINE that reads vertices ends as its segments do. -/
theorem polylinePaintsItsSegments : Obligations.PolylinePaintsItsSegments := by
  refine fun s addr count c hs hw => ⟨exec_polyline_noOp hs.session hw, fun haddr hcount => ?_⟩
  rw [exec_polyline_draws hs.session hw haddr hcount]
  refine ⟨fun vx vy hread => ⟨_, rfl, ?painted⟩, fun k hk => ⟨_, rfl, ?faulted⟩⟩
  case painted =>
    rw [polySegments_done hread]
    exact (endFetch_paint_paintedBy hs _ _).congr fun x y _ _ => mem_polyPts
  case faulted =>
    have hl := polySegments_length s.cfg (colorOf c) s.src addr.toNat count.toNat s.fb
    obtain ⟨fb, hfault⟩ := polySegments_fault hcount hk s.cfg (colorOf c) s.fb
    rw [hfault] at hl ⊢
    exact endFetch_fault_srcFaulted _ hl

end Sys2Proof.Machine
end

section
/-! PROOFS. Area operations (42_fills.md): FILLRECT (R140) and FILLTRI (R148) paint what their point lists hold; the two
forms of INVRECT (R142, R143) invert the same pixels; the edges of a triangle (R146) and the span between them on each of
its rows (R147). -/

namespace Sys2Proof.Machine

/-! ## FILLRECT (R140) -/

@[simp] theorem mem_rowPts {y a b : Int} {r : Point} : r ∈ rowPts y a b ↔ r.y = y ∧ a ≤ r.x ∧ r.x ≤ b := by
  simp only [rowPts, List.mem_map, mem_upTo]
  constructor
  · rintro ⟨x, hx, rfl⟩
    exact ⟨rfl, hx⟩
  · rintro ⟨rfl, hx⟩
    exact ⟨r.x, hx, rfl⟩

/-- The points of FILLRECT are those of the closed rectangle that lie left of the right and above the bottom border. -/
theorem mem_fillRectPts {cfg : Config} {p q r : Point} :
    r ∈ fillRectPts cfg p q ↔ (min p.x q.x ≤ r.x ∧ r.x ≤ max p.x q.x ∧ min p.y q.y ≤ r.y ∧ r.y ≤ max p.y q.y) ∧
      r.x < cfg.width ∧ r.y < cfg.height := by
  simp only [fillRectPts, List.mem_flatMap, mem_upTo, mem_rowPts]
  constructor
  · rintro ⟨_, hrow, rfl, hcol⟩
    omega
  · intro h
    exact ⟨r.y, by omega, rfl, by omega⟩

/-- Settles O34: FILLRECT paints the list of its clipped points. -/
theorem fillRectPaintsTheRectangle : Obligations.FillRectPaintsTheRectangle := by
  intro s x1 y1 x2 y2 c hs hw
  obtain ⟨t, hexec, hpaint⟩ :=
    execute_paintAll (op := 0x14#8) (colorOf c) (fillRectPts s.cfg (pointOf x1 y1) (pointOf x2 y2))
      ((colLegal_eq_wfCol c).trans hw) hs
  refine ⟨t, hexec, hpaint.congr fun x y hx hy => mem_fillRectPts.trans ?_⟩
  simp only [pointOf]
  omega

/-! ## Inverted pixels -/

/-- `fb'` is `fb` with exactly the in-bounds pixels of `shape` inverted. -/
structure InvertedBy (cfg : Config) (shape : Nat → Nat → Prop) (fb fb' : List Byte) : Prop where
  length : fb'.length = fb.length
  inside : ∀ x y : Nat, x < cfg.width → y < cfg.height → shape x y → pixel cfg fb' x y = !pixel cfg fb x y
  outside : ∀ x y : Nat, x < cfg.width → y < cfg.height → ¬ shape x y → pixel cfg fb' x y = pixel cfg fb x y

section
variable {cfg : Config} {p q : Nat → Nat → Prop} {fb fb' fb'' : List Byte}

theorem InvertedBy.congr (h : InvertedBy cfg p fb fb') (hpq : ∀ x y, p x y ↔ q x y) : InvertedBy cfg q fb fb' := by
  obtain rfl : p = q := funext₂ fun x y => propext (hpq x y)
  exact h

theorem InvertedBy.pixel_eq [∀ x y, Decidable (p x y)] (h : InvertedBy cfg p fb fb') {x y : Nat} (hx : x < cfg.width)
    (hy : y < cfg.height) : pixel cfg fb' x y = if p x y then !pixel cfg fb x y else pixel cfg fb x y := by
  split
  · exact h.inside x y hx hy ‹_›
  · exact h.outside x y hx hy ‹_›

/-- Inverting two shapes that share no pixel inverts both. -/
theorem InvertedBy.union (h : InvertedBy cfg p fb fb') (h' : InvertedBy cfg q fb' fb'') (hpq : ∀ x y, p x y → ¬ q x y) :
    InvertedBy cfg (fun x y => p x y ∨ q x y) fb fb'' where
  length := h'.length.trans h.length
  inside x y hx hy hor := by
    obtain hp | hq := hor
    · rw [h'.outside x y hx hy (hpq x y hp), h.inside x y hx hy hp]
    · rw [h'.inside x y hx hy hq, h.outside x y hx hy fun hp => hpq x y hp hq]
  outside x y hx hy hor := by
    obtain ⟨hp, hq⟩ := not_or.1 hor
    rw [h'.outside x y hx hy hq, h.outside x y hx hy hp]

/-- A loop that inverts a shape of its own for every item inverts them all, when no two items share a pixel. -/
theorem InvertedBy.foldl {ι : Type} {shape : ι → Nat → Nat → Prop} {f : List Byte → ι → List Byte} {n : Nat}
    (hdisjoint : ∀ i j x y, shape i x y → shape j x y → i = j) {is : List ι} (hnodup : is.Nodup)
    (hf : ∀ i ∈ is, ∀ fb, fb.length = n → InvertedBy cfg (shape i) fb (f fb i)) {fb : List Byte} (hl : fb.length = n) :
    InvertedBy cfg (fun x y => ∃ i ∈ is, shape i x y) fb (is.foldl f fb) := by
  induction is generalizing fb with
  | nil => exact ⟨rfl, fun x y _ _ h => by simp at h, fun x y _ _ _ => rfl⟩
  | cons i is ih =>
    obtain ⟨hi, hnodup⟩ := List.nodup_cons.1 hnodup
    have hhead := hf i List.mem_cons_self fb hl
    have htail := ih hnodup (fun j hj => hf j (List.mem_cons_of_mem i hj)) (hhead.length.trans hl)
    refine (hhead.union htail ?_).congr fun x y => by simp only [List.mem_cons, exists_eq_or_imp]
    rintro x y hix ⟨j, hj, hjx⟩
    exact hi (hdisjoint i j x y hix hjx ▸ hj)

section
variable (hc : cfg.wf = true) (hl : fb.length = cfg.bufSize)
include hc hl

theorem InvertedBy.unique (h : InvertedBy cfg p fb fb') (h' : InvertedBy cfg p fb fb'') : fb' = fb'' := by
  classical
  refine fb_eq_of_pixels hc (h.length.trans hl) (h'.length.trans hl) fun x y hx hy => ?_
  rw [h.pixel_eq hx hy, h'.pixel_eq hx hy]

/-- Inverting one shape twice restores the buffer. -/
theorem InvertedBy.twice (h : InvertedBy cfg p fb fb') (h' : InvertedBy cfg p fb' fb'') : fb'' = fb := by
  refine fb_eq_of_pixels hc (h'.length.trans (h.length.trans hl)) hl fun x y hx hy => ?_
  by_cases hp : p x y
  · rw [h'.inside x y hx hy hp, h.inside x y hx hy hp, Bool.not_not]
  · rw [h'.outside x y hx hy hp, h.outside x y hx hy hp]

theorem invertedBy_flip {a b : Nat} (ha : a < cfg.width) (hb : b < cfg.height) :
    InvertedBy cfg (fun x y => x = a ∧ y = b) fb (flip cfg a b fb) where
  length := flip_length cfg a b fb
  inside _ _ hx _ h := (pixel_flip hc hl ha hb hx).trans (if_pos h)
  outside _ _ hx _ h := (pixel_flip hc hl ha hb hx).trans (if_neg h)

/-- XORing a byte with a mask inverts the pixels of its set bits (20_memory.md R51). -/
theorem invertedBy_xorByte {a page : Nat} (m : Byte) (ha : a < cfg.width) (hpage : page < cfg.pages) :
    InvertedBy cfg (fun x y => x = a ∧ y / 8 = page ∧ m.getLsbD (y % 8) = true) fb
      (fb.modify (a + page * cfg.width) fun b => b ^^^ m) := by
  obtain ⟨-, -, -, -, hheight⟩ := Config.wf_sizes hc
  have hdiv : 8 * page / 8 = page := Nat.mul_div_cancel_left page (by decide)
  have hindex : a + page * cfg.width = fbIndex cfg a (8 * page) := by rw [fbIndex, hdiv]
  have hlt : fbIndex cfg a (8 * page) < fb.length := hl ▸ fbIndex_lt hc ha (by omega)
  rw [hindex]
  refine ⟨List.length_modify .., ?inside, ?outside⟩
  case inside =>
    rintro x y - - ⟨rfl, hrow, hm⟩
    have hbyte : fbIndex cfg x y = fbIndex cfg x (8 * page) := by rw [fbIndex, hrow, hindex]
    rw [pixel_modify _ _ _ hlt, if_pos hbyte, BitVec.getLsbD_xor, hm, Bool.xor_true, ← hbyte]
    rfl
  case outside =>
    intro x y hx _ hout
    rw [pixel_modify _ _ _ hlt]
    by_cases hbyte : fbIndex cfg x y = fbIndex cfg a (8 * page)
    · obtain ⟨hcol, hrow⟩ := fbIndex_inj hx ha hbyte
      have hm : m.getLsbD (y % 8) = false := Bool.eq_false_iff.2 fun hm => hout ⟨hcol, hrow.trans hdiv, hm⟩
      rw [if_pos hbyte, BitVec.getLsbD_xor, hm, Bool.xor_false, ← hbyte]
      rfl
    · exact if_neg hbyte

end

/-! ## The two forms of INVRECT (R142, R143) -/

theorem invRange_iff {x1 y1 x2 y2 : Nat} :
    invRange cfg x1 y1 x2 y2 = true ↔ x2 < cfg.width ∧ y2 < cfg.height ∧ x1 ≤ x2 ∧ y1 ≤ y2 := by
  simp only [invRange, Bool.and_eq_true, decide_eq_true_eq, and_assoc]

/-- Pixel `(x, y)` lies in the closed rectangle of an INVRECT. -/
abbrev InRect (x1 y1 x2 y2 x y : Nat) : Prop := x1 ≤ x ∧ x ≤ x2 ∧ y1 ≤ y ∧ y ≤ y2

theorem mem_range'_closed {a b v : Nat} : v ∈ List.range' a (b + 1 - a) ↔ a ≤ v ∧ v ≤ b := by
  rw [List.mem_range'_1]
  omega

/-- The mask of the rows from `r` of a page down (R143). -/
theorem topMask_getLsbD (r : Nat) {k : Nat} (hk : k < 8) : (0xFF#8 <<< r).getLsbD k = true ↔ r ≤ k := by
  rw [show 0xFF#8 = BitVec.allOnes 8 from rfl, BitVec.getLsbD_shiftLeft, BitVec.getLsbD_allOnes]
  simp only [Bool.and_eq_true, Bool.not_eq_true', decide_eq_true_eq, decide_eq_false_iff_not]
  omega

/-- The mask of the rows of a page up to `r` (R143). -/
theorem botMask_getLsbD {r : Nat} (hr : r < 8) (k : Nat) : (0xFF#8 >>> (7 - r)).getLsbD k = true ↔ k ≤ r := by
  rw [show 0xFF#8 = BitVec.allOnes 8 from rfl, BitVec.getLsbD_ushiftRight, BitVec.getLsbD_allOnes, decide_eq_true_eq]
  omega

section
variable (hc : cfg.wf = true) (hl : fb.length = cfg.bufSize) {x1 y1 x2 y2 : Nat}
include hc hl

/-- The pixel form visits every pixel of the rectangle once. -/
theorem invertedBy_invertRect (h : invRange cfg x1 y1 x2 y2 = true) :
    InvertedBy cfg (InRect x1 y1 x2 y2) fb (invertRect cfg x1 y1 x2 y2 fb) := by
  obtain ⟨hx2, hy2, -, -⟩ := invRange_iff.1 h
  have hrow : ∀ y ∈ List.range' y1 (y2 + 1 - y1), ∀ fb, fb.length = cfg.bufSize →
      InvertedBy cfg (fun x y' => ∃ a ∈ List.range' x1 (x2 + 1 - x1), x = a ∧ y' = y) fb
        ((List.range' x1 (x2 + 1 - x1)).foldl (fun fb x => flip cfg x y fb) fb) := by
    intro y hy fb hl
    refine .foldl (fun _ _ _ _ hi hj => hi.1.symm.trans hj.1) List.nodup_range' (fun a ha fb hl => ?_) hl
    exact invertedBy_flip hc hl ((mem_range'_closed.1 ha).2.trans_lt hx2) ((mem_range'_closed.1 hy).2.trans_lt hy2)
  refine (InvertedBy.foldl ?disjoint List.nodup_range' hrow hl).congr fun x y => ?shape
  case disjoint =>
    rintro i j x y ⟨-, -, -, rfl⟩ ⟨-, -, -, rfl⟩
    rfl
  case shape =>
    simp only [mem_range'_closed, InRect]
    constructor
    · rintro ⟨_, hy, _, hx, rfl, rfl⟩
      exact ⟨hx.1, hx.2, hy⟩
    · rintro ⟨hx1, hx2, hy⟩
      exact ⟨y, hy, x, ⟨hx1, hx2⟩, rfl, rfl⟩

/-- The whole pages of a column from page `first` to the one before page `last`. -/
theorem invertedBy_wholePages {a first last : Nat} (ha : a < cfg.width) (hlast : last ≤ cfg.pages) :
    InvertedBy cfg (fun x y => x = a ∧ first ≤ y / 8 ∧ y / 8 < last) fb
      ((List.range' first (last - first)).foldl (fun fb p => fb.modify (a + p * cfg.width) fun b => b ^^^ 0xFF#8) fb) := by
  have hpage : ∀ p ∈ List.range' first (last - first), ∀ fb, fb.length = cfg.bufSize →
      InvertedBy cfg (fun x y => x = a ∧ y / 8 = p) fb (fb.modify (a + p * cfg.width) fun b => b ^^^ 0xFF#8) := by
    intro p hp fb hl
    rw [List.mem_range'_1] at hp
    refine (invertedBy_xorByte hc hl _ ha (by omega)).congr fun x y => ?_
    have hfull : (0xFF#8).getLsbD (y % 8) = true :=
      (topMask_getLsbD 0 (Nat.mod_lt y (by decide))).2 (Nat.zero_le _)
    rw [hfull, and_iff_left rfl]
  refine (InvertedBy.foldl (fun _ _ _ _ hi hj => hi.2.symm.trans hj.2) List.nodup_range' hpage hl).congr fun x y => ?_
  simp only [List.mem_range'_1]
  constructor
  · rintro ⟨_, hp, rfl, rfl⟩
    omega
  · rintro ⟨rfl, hp⟩
    exact ⟨y / 8, by omega, rfl, rfl⟩

/-- The masks of the pages of a column cover its rows from `y1` to `y2` once. -/
theorem invertedBy_invertColumn {a : Nat} (ha : a < cfg.width) (hy : y1 ≤ y2) (hy2 : y2 < cfg.height) :
    InvertedBy cfg (fun x y => x = a ∧ y1 ≤ y ∧ y ≤ y2) fb (invertColumn cfg y1 y2 a fb) := by
  obtain ⟨-, -, -, -, hheight⟩ := Config.wf_sizes hc
  have htop (y : Nat) := topMask_getLsbD (y1 % 8) (Nat.mod_lt y (by decide))
  have hbot (y : Nat) := botMask_getLsbD (Nat.mod_lt y2 (by decide)) (y % 8)
  unfold invertColumn
  dsimp only
  split
  · refine (invertedBy_xorByte hc hl _ ha (by omega)).congr fun x y => ?_
    rw [BitVec.getLsbD_and, Bool.and_eq_true, htop, hbot]
    omega
  · have hfirst := invertedBy_xorByte hc hl (0xFF#8 <<< (y1 % 8)) ha (page := y1 / 8) (by omega)
    have hl1 := hfirst.length.trans hl
    have hmiddle := invertedBy_wholePages hc hl1 ha (first := y1 / 8 + 1) (last := y2 / 8) (by omega)
    have hlast := invertedBy_xorByte hc (hmiddle.length.trans hl1) (0xFF#8 >>> (7 - y2 % 8)) ha (page := y2 / 8) (by omega)
    refine ((hfirst.union hmiddle fun x y h1 h2 => ?_).union hlast fun x y h1 h2 => ?_).congr fun x y => ?_
    · omega
    · omega
    · rw [htop, hbot]
      omega

/-- The byte-mask form visits every column of the rectangle once. -/
theorem invertedBy_invertRectBytes (h : invRange cfg x1 y1 x2 y2 = true) :
    InvertedBy cfg (InRect x1 y1 x2 y2) fb (invertRectBytes cfg x1 y1 x2 y2 fb) := by
  obtain ⟨hx2, hy2, -, hy⟩ := invRange_iff.1 h
  have hcol : ∀ a ∈ List.range' x1 (x2 + 1 - x1), ∀ fb, fb.length = cfg.bufSize →
      InvertedBy cfg (fun x y => x = a ∧ y1 ≤ y ∧ y ≤ y2) fb (invertColumn cfg y1 y2 a fb) :=
    fun a ha fb hl => invertedBy_invertColumn hc hl ((mem_range'_closed.1 ha).2.trans_lt hx2) hy hy2
  refine (InvertedBy.foldl (fun _ _ _ _ hi hj => hi.1.symm.trans hj.1) List.nodup_range' hcol hl).congr fun x y => ?_
  simp only [mem_range'_closed, InRect]
  constructor
  · rintro ⟨_, hx, rfl, hy⟩
    exact ⟨hx.1, hx.2, hy⟩
  · rintro ⟨hx1, hx2, hy⟩
    exact ⟨x, ⟨hx1, hx2⟩, rfl, hy⟩

end
end

/-- Settles O37: both forms invert the pixels of the rectangle. -/
theorem byteMaskInversionEqualsPixelInversion : Obligations.ByteMaskInversionEqualsPixelInversion :=
  fun _ _ _ _ _ _ hc hl h => (invertedBy_invertRectBytes hc hl h).unique hc hl (invertedBy_invertRect hc hl h)

/-! ## INVRECT (R142) -/

section
variable {s : State} {x1 y1 x2 y2 : Byte}

theorem exec_invrect_outOfRange (hs : s.session = .ready)
    (h : invRange s.cfg x1.toNat y1.toNat x2.toNat y2.toNat = false) :
    exec (.invrect x1 y1 x2 y2) s = .next { s with last := .rangeError, result := 0x00#8, busy := false } := by
  rw [exec, execInvrect, execute_body rfl hs, State.begin_cfg, h]
  rfl

theorem exec_invrect_inRange (hs : s.session = .ready)
    (h : invRange s.cfg x1.toNat y1.toNat x2.toNat y2.toNat = true) :
    exec (.invrect x1 y1 x2 y2) s =
      .next { s with
        fb := invertRect s.cfg x1.toNat y1.toNat x2.toNat y2.toNat s.fb, last := .ok, result := 0x00#8, busy := false } := by
  rw [exec, execInvrect, execute_body rfl hs, State.begin_cfg, if_pos h]
  rfl

end

/-- Settles O35: an INVRECT in range ends with its rectangle inverted. -/
theorem invRectFlipsTheRectangle : Obligations.InvRectFlipsTheRectangle := by
  refine fun s x1 y1 x2 y2 hs => ⟨fun hout => ?outOfRange, fun hx2 hy2 hx hy => ?inRange⟩
  case outOfRange =>
    refine exec_invrect_outOfRange hs.session (Bool.eq_false_iff.2 fun h => ?_)
    have := invRange_iff.1 h
    omega
  case inRange =>
    have h := invRange_iff.2 ⟨hx2, hy2, hx, hy⟩
    have hinv := invertedBy_invertRect hs.cfgLegal hs.fbSize h
    exact ⟨_, exec_invrect_inRange hs.session h, ⟨rfl, hinv.length⟩, fun x y hx hy => hinv.pixel_eq hx hy⟩

/-- What an INVRECT leaves in the framebuffer, and that it leaves the session and the configuration. -/
theorem invrect_effect {s t : State} {x1 y1 x2 y2 : Byte} (hs : s.session = .ready)
    (hexec : exec (.invrect x1 y1 x2 y2) s = .next t) :
    t.session = .ready ∧ t.cfg = s.cfg ∧
      t.fb = if invRange s.cfg x1.toNat y1.toNat x2.toNat y2.toNat then
        invertRect s.cfg x1.toNat y1.toNat x2.toNat y2.toNat s.fb else s.fb := by
  cases h : invRange s.cfg x1.toNat y1.toNat x2.toNat y2.toNat with
  | false =>
    rw [exec_invrect_outOfRange hs h] at hexec
    cases hexec
    exact ⟨hs, rfl, rfl⟩
  | true =>
    rw [exec_invrect_inRange hs h] at hexec
    cases hexec
    exact ⟨hs, rfl, rfl⟩

/-- Settles O36: the second INVRECT finds the same range and inverts the same pixels. -/
theorem invRectTwiceRestoresTheBuffer : Obligations.InvRectTwiceRestoresTheBuffer := by
  intro s t u x1 y1 x2 y2 hs hst htu
  obtain ⟨hsession, hcfg, hfirst⟩ := invrect_effect hs.session hst
  obtain ⟨-, -, hsecond⟩ := invrect_effect hsession htu
  rw [hcfg] at hsecond
  by_cases h : invRange s.cfg x1.toNat y1.toNat x2.toNat y2.toNat = true
  · rw [if_pos h] at hfirst hsecond
    have hinv := invertedBy_invertRect hs.cfgLegal hs.fbSize h
    rw [hsecond, hfirst]
    exact hinv.twice hs.cfgLegal hs.fbSize (invertedBy_invertRect hs.cfgLegal (hinv.length.trans hs.fbSize) h)
  · rw [if_neg h] at hfirst hsecond
    exact hsecond.trans hfirst

/-! ## Rounded division and edges (R146) -/

/-- `RDiv` of a magnitude `a` lies half a unit or less above `a / d`, and less than half a unit below. -/
theorem rdiv_magnitude_bounds {a d : Int} (hd : 0 < d) :
    -d ≤ 2 * (a - d * ((2 * a + d) / (2 * d))) ∧ 2 * (a - d * ((2 * a + d) / (2 * d))) < d := by
  have hle := Int.mul_ediv_self_le (x := 2 * a + d) (k := 2 * d) (by omega)
  have hlt := Int.lt_mul_ediv_self_add (x := 2 * a + d) (k := 2 * d) (by omega)
  rw [mul_assoc] at hle hlt
  omega

/-- `RDiv(n, d)` is within half a unit of `n / d`, and in a tie it is the integer of larger magnitude. -/
theorem rdiv_nearest (n : Int) {d : Int} (hd : 0 < d) :
    2 * (n - d * rdiv n d).natAbs ≤ d ∧ (2 * ((n - d * rdiv n d).natAbs : Int) = d → n.natAbs < (d * rdiv n d).natAbs) := by
  obtain ⟨hlower, hupper⟩ := rdiv_magnitude_bounds (a := n.natAbs) hd
  unfold rdiv
  dsimp only
  generalize (2 * (n.natAbs : Int) + d) / (2 * d) = m at *
  split
  · omega
  · rw [mul_neg]
    omega

/-- A quotient without remainder is not rounded. -/
theorem rdiv_mul_self (k : Int) {d : Int} (hd : 0 < d) : rdiv (d * k) d = k := by
  have hnear := (rdiv_nearest (d * k) hd).1
  rw [← mul_sub, Int.natAbs_mul, Nat.cast_mul, Int.natAbs_of_nonneg hd.le] at hnear
  by_contra hne
  have hpos : 1 ≤ ((k - rdiv (d * k) d).natAbs : Int) := by omega
  nlinarith

theorem edgeX_flat {p q : Point} (h : q.y = p.y) (y : Int) : edgeX p q y = p.x := if_pos h

theorem edgeX_rising {p q : Point} (h : p.y < q.y) (y : Int) :
    edgeX p q y = p.x + rdiv ((y - p.y) * (q.x - p.x)) (q.y - p.y) := if_neg h.ne'

/-- An edge starts at its first point. -/
theorem edgeX_first {p q : Point} (h : p.y ≤ q.y) : edgeX p q p.y = p.x := by
  obtain hflat | hrise := h.eq_or_lt
  · exact edgeX_flat hflat.symm _
  · have := rdiv_mul_self 0 (Int.sub_pos_of_lt hrise)
    rw [mul_zero] at this
    rw [edgeX_rising hrise, Int.sub_self, zero_mul, this, Int.add_zero]

/-- A rising edge ends at its second point. -/
theorem edgeX_last {p q : Point} (h : p.y < q.y) : edgeX p q q.y = q.x := by
  rw [edgeX_rising h, rdiv_mul_self _ (Int.sub_pos_of_lt h)]
  omega

/-- Settles O38: the rounded quotient is within half a unit, and an exact quotient is not rounded. -/
theorem rDivRoundsToNearestAwayFromZero : Obligations.RDivRoundsToNearestAwayFromZero :=
  ⟨fun n _ hd => rdiv_nearest n hd, fun _ _ y =>
    ⟨fun h => edgeX_flat h y, fun h => ⟨edgeX_rising h y, edgeX_first h.le, edgeX_last h⟩⟩⟩

/-! ## The vertices by ascending rows (R147) -/

/-- `v0`, `v1`, `v2` are the vertices `a`, `b`, `c` in an order of ascending rows. -/
structure RowOrder (a b c v0 v1 v2 : Point) : Prop where
  perm : [v0, v1, v2].Perm [a, b, c]
  upper : v0.y ≤ v1.y
  lower : v1.y ≤ v2.y

/-- The six orders of three vertices. -/
theorem perm_three_iff {α : Type} {a b c x y z : α} :
    [x, y, z].Perm [a, b, c] ↔
      (x = a ∧ y = b ∧ z = c) ∨ (x = b ∧ y = a ∧ z = c) ∨ (x = b ∧ y = c ∧ z = a) ∨
      (x = a ∧ y = c ∧ z = b) ∨ (x = c ∧ y = a ∧ z = b) ∨ (x = c ∧ y = b ∧ z = a) := by
  rw [← List.mem_permutations']
  simp [List.permutations', List.permutations'Aux]

theorem byRow_perm (p q : Point) : [(byRow p q).1, (byRow p q).2].Perm [p, q] := by
  unfold byRow
  split
  · exact .swap p q []
  · exact .refl [p, q]

@[simp] theorem byRow_fst_y (p q : Point) : (byRow p q).1.y = min p.y q.y := by
  unfold byRow
  split <;> dsimp only <;> omega

@[simp] theorem byRow_snd_y (p q : Point) : (byRow p q).2.y = max p.y q.y := by
  unfold byRow
  split <;> dsimp only <;> omega

/-- The three swaps of R147 sort the vertices. -/
theorem rowOrder_sortByRow (a b c : Point) :
    RowOrder a b c (sortByRow a b c).1 (sortByRow a b c).2.1 (sortByRow a b c).2.2 := by
  refine ⟨?perm, ?upper, ?lower⟩
  case perm =>
    exact ((byRow_perm _ _).append_right [_]).trans
      (((byRow_perm (byRow a b).2 c).cons _).trans ((byRow_perm a b).append_right [c]))
  case upper | lower =>
    simp only [sortByRow, byRow_fst_y, byRow_snd_y]
    omega

/-- An order of ascending rows starts at the least row and ends at the greatest. -/
theorem RowOrder.rows {a b c v0 v1 v2 : Point} (h : RowOrder a b c v0 v1 v2) :
    min (min a.y b.y) c.y = v0.y ∧ max (max a.y b.y) c.y = v2.y := by
  obtain ⟨hperm, hupper, hlower⟩ := h
  obtain ⟨rfl, rfl, rfl⟩ | ⟨rfl, rfl, rfl⟩ | ⟨rfl, rfl, rfl⟩ | ⟨rfl, rfl, rfl⟩ | ⟨rfl, rfl, rfl⟩ | ⟨rfl, rfl, rfl⟩ :=
    perm_three_iff.1 hperm <;> omega

/-! ## The rows of a triangle (R147) -/

/-- The column, on row `y`, of the short edge that crosses it: the upper one above the middle vertex's row, the lower one
from that row on. -/
def shortEdgeX (v0 v1 v2 : Point) (y : Int) : Int := if y < v1.y then edgeX v0 v1 y else edgeX v1 v2 y

section
variable {v0 v1 v2 r : Point}

theorem shortEdgeX_lower {y : Int} (hy : v1.y ≤ y) : shortEdgeX v0 v1 v2 y = edgeX v1 v2 y := if_neg (not_lt.2 hy)

/-- On the middle vertex's row the two short edges meet, so an upper edge that rises may be taken there too. -/
theorem shortEdgeX_upper {y : Int} (h01 : v0.y < v1.y) (h12 : v1.y ≤ v2.y) (hy : y ≤ v1.y) :
    shortEdgeX v0 v1 v2 y = edgeX v0 v1 y := by
  obtain rfl | habove := hy.eq_or_lt
  · rw [shortEdgeX_lower le_rfl, edgeX_first h12, edgeX_last h01]
  · exact if_pos habove

theorem mem_triRows_flat (h : v0.y = v2.y) :
    r ∈ triRows v0 v1 v2 ↔ r.y = v0.y ∧ min (min v0.x v1.x) v2.x ≤ r.x ∧ r.x ≤ max (max v0.x v1.x) v2.x := by
  rw [triRows, if_pos h, mem_rowPts]

theorem mem_triRows_high (h : v0.y < v2.y) :
    r ∈ triRows v0 v1 v2 ↔ (v0.y ≤ r.y ∧ r.y ≤ v2.y) ∧
      min (edgeX v0 v2 r.y) (shortEdgeX v0 v1 v2 r.y) ≤ r.x ∧ r.x ≤ max (edgeX v0 v2 r.y) (shortEdgeX v0 v1 v2 r.y) := by
  simp only [triRows, if_neg h.ne, List.mem_flatMap, mem_upTo, mem_rowPts]
  constructor
  · rintro ⟨y, hy, rfl, hx⟩
    exact ⟨hy, hx⟩
  · rintro ⟨hy, hx⟩
    exact ⟨r.y, hy, rfl, hx⟩

theorem row_of_mem_triRows (h02 : v0.y ≤ v2.y) (hr : r ∈ triRows v0 v1 v2) : v0.y ≤ r.y ∧ r.y ≤ v2.y := by
  obtain hflat | hhigh := h02.eq_or_lt
  · have := (mem_triRows_flat hflat).1 hr
    omega
  · exact ((mem_triRows_high hhigh).1 hr).1

theorem exists_span_triRows {y : Int} (htop : v0.y ≤ y) (hbottom : y ≤ v2.y) :
    ∃ lo hi, lo ≤ hi ∧ ∀ x, ⟨x, y⟩ ∈ triRows v0 v1 v2 ↔ lo ≤ x ∧ x ≤ hi := by
  obtain hflat | hhigh := (htop.trans hbottom).eq_or_lt
  · have hrow : y = v0.y := by omega
    refine ⟨min (min v0.x v1.x) v2.x, max (max v0.x v1.x) v2.x, by omega, fun x => ?_⟩
    exact (mem_triRows_flat hflat).trans (and_iff_right hrow)
  · refine ⟨min (edgeX v0 v2 y) (shortEdgeX v0 v1 v2 y), max (edgeX v0 v2 y) (shortEdgeX v0 v1 v2 y), min_le_max,
      fun x => ?_⟩
    exact (mem_triRows_high hhigh).trans (and_iff_right ⟨htop, hbottom⟩)

/-! ## The vertices are points of the triangle -/

section
variable (h01 : v0.y ≤ v1.y) (h12 : v1.y ≤ v2.y)
include h01 h12

theorem top_mem_triRows : v0 ∈ triRows v0 v1 v2 := by
  obtain hflat | hhigh := (h01.trans h12).eq_or_lt
  · rw [mem_triRows_flat hflat]
    omega
  · rw [mem_triRows_high hhigh, edgeX_first hhigh.le]
    omega

theorem middle_mem_triRows : v1 ∈ triRows v0 v1 v2 := by
  obtain hflat | hhigh := (h01.trans h12).eq_or_lt
  · rw [mem_triRows_flat hflat]
    omega
  · rw [mem_triRows_high hhigh, shortEdgeX_lower le_rfl, edgeX_first h12]
    omega

theorem bottom_mem_triRows : v2 ∈ triRows v0 v1 v2 := by
  obtain hflat | hhigh := (h01.trans h12).eq_or_lt
  · rw [mem_triRows_flat hflat]
    omega
  · rw [mem_triRows_high hhigh, edgeX_last hhigh]
    omega

end

/-! ## The order of vertices of one row does not matter -/

/-- Two vertices on the top row: the long edge and the lower short edge change places. -/
theorem mem_triRows_swap_top (h01 : v0.y = v1.y) (hhigh : v0.y < v2.y) :
    r ∈ triRows v1 v0 v2 ↔ r ∈ triRows v0 v1 v2 := by
  rw [mem_triRows_high hhigh, mem_triRows_high (h01 ▸ hhigh), h01]
  refine and_congr_right fun hrow => ?_
  rw [shortEdgeX_lower hrow.1, shortEdgeX_lower (h01 ▸ hrow.1), min_comm, max_comm]

/-- Two vertices on the bottom row: the long edge and the upper short edge change places. -/
theorem mem_triRows_swap_bottom (h12 : v1.y = v2.y) (hhigh : v0.y < v2.y) :
    r ∈ triRows v0 v2 v1 ↔ r ∈ triRows v0 v1 v2 := by
  rw [mem_triRows_high hhigh, mem_triRows_high (h12 ▸ hhigh), h12]
  refine and_congr_right fun hrow => ?_
  rw [shortEdgeX_upper hhigh h12.ge hrow.2, shortEdgeX_upper (h12 ▸ hhigh) h12.le (h12 ▸ hrow.2), min_comm, max_comm]

end

section
variable {a b c v0 v1 v2 w0 w1 w2 r : Point}

/-- Every order of the vertices by ascending rows gives the same points: two orders of a triangle that is not flat differ
at most in two vertices of its top or of its bottom row, since any other change would make all rows equal. -/
theorem RowOrder.mem_triRows_iff (hv : RowOrder a b c v0 v1 v2) (hw : RowOrder a b c w0 w1 w2) :
    r ∈ triRows w0 w1 w2 ↔ r ∈ triRows v0 v1 v2 := by
  have hperm := perm_three_iff.1 (hw.perm.trans hv.perm.symm)
  have htop : v0.y = w0.y := hv.rows.1.symm.trans hw.rows.1
  have hbottom : v2.y = w2.y := hv.rows.2.symm.trans hw.rows.2
  obtain ⟨-, hv01, hv12⟩ := hv
  obtain hflat | hhigh := (hv01.trans hv12).eq_or_lt
  · rw [mem_triRows_flat hflat, mem_triRows_flat (htop.symm.trans (hflat.trans hbottom))]
    obtain ⟨rfl, rfl, rfl⟩ | ⟨rfl, rfl, rfl⟩ | ⟨rfl, rfl, rfl⟩ | ⟨rfl, rfl, rfl⟩ | ⟨rfl, rfl, rfl⟩ | ⟨rfl, rfl, rfl⟩ :=
      hperm <;> omega
  · obtain ⟨rfl, rfl, rfl⟩ | ⟨rfl, rfl, rfl⟩ | ⟨rfl, rfl, rfl⟩ | ⟨rfl, rfl, rfl⟩ | ⟨rfl, rfl, rfl⟩ | ⟨rfl, rfl, rfl⟩ := hperm
    · rfl
    · exact mem_triRows_swap_top htop hhigh
    · omega
    · exact mem_triRows_swap_bottom hbottom.symm hhigh
    · omega
    · omega

theorem RowOrder.mem_triPts_iff (hv : RowOrder a b c v0 v1 v2) : r ∈ triPts a b c ↔ r ∈ triRows v0 v1 v2 :=
  hv.mem_triRows_iff (rowOrder_sortByRow a b c)

/-- All three vertices lie in the triangle, since the sorted ones do. -/
theorem vertices_subset_triPts (a b c : Point) : [a, b, c] ⊆ triPts a b c := by
  obtain ⟨hperm, h01, h12⟩ := rowOrder_sortByRow a b c
  refine List.Subset.trans hperm.symm.subset ?_
  simp only [List.cons_subset, List.nil_subset, and_true]
  exact ⟨top_mem_triRows h01 h12, middle_mem_triRows h01 h12, bottom_mem_triRows h01 h12⟩

end

/-- Settles O39: a row's span is that of the sorted vertices, and every ascending order gives the points of the sorted one. -/
theorem triangleGivesEachRowOneSpan : Obligations.TriangleGivesEachRowOneSpan := by
  refine ⟨fun a b c y => ?rows, fun a b c v0 v1 v2 hperm h01 h12 => ?ends, fun a b c => ?vertices⟩
  case rows =>
    have horder := rowOrder_sortByRow a b c
    rw [horder.rows.1, horder.rows.2]
    refine ⟨fun hy => exists_span_triRows hy.1 hy.2, fun hy x hx => ?_⟩
    have hrow := row_of_mem_triRows (horder.upper.trans horder.lower) hx
    dsimp only at hrow
    omega
  case ends =>
    have horder : RowOrder a b c v0 v1 v2 := ⟨hperm, h01, h12⟩
    refine ⟨fun hflat x => ?flat, fun hhigh x y htop hbottom => ?high⟩
    case flat => exact horder.mem_triPts_iff.trans ((mem_triRows_flat hflat).trans (and_iff_right rfl))
    case high => exact horder.mem_triPts_iff.trans ((mem_triRows_high hhigh).trans (and_iff_right ⟨htop, hbottom⟩))
  case vertices => simpa only [List.cons_subset, List.nil_subset, and_true] using vertices_subset_triPts a b c

/-! ## FILLTRI (R148) -/

/-- Settles O40: FILLTRI paints the list of its points. -/
theorem fillTriPaintsItsPoints : Obligations.FillTriPaintsItsPoints :=
  fun _ x0 y0 x1 y1 x2 y2 c hs hw =>
    execute_paintAll (op := 0x1A#8) (colorOf c) (triPts (pointOf x0 y0) (pointOf x1 y1) (pointOf x2 y2))
      ((colLegal_eq_wfCol c).trans hw) hs

end Sys2Proof.Machine
end

section
/-! PROOFS. Circles (43_circles_arcs.md, section 1): one pass of the circle loop keeps the offset within the radius and
brings it nearer to the loop's end (R160); CIRCLE (R162) and FILLCIRCLE (R164) paint their points, and the filled circle
covers the outline (conflict C4). -/

namespace Sys2Proof.Machine

/-! ## One pass of the loop (R160) -/

/-- The row offset after one pass of the loop of `CircleSteps`. -/
def circleNextY (y err : Int) : Int := if err ≤ y then y + 1 else y

/-- The column offset after one pass of the loop of `CircleSteps`. -/
def circleNextX (x y err : Int) : Int :=
  if (if err ≤ y ∧ -x = circleNextY y err ∧ err ≤ x then 0 else err) > x then x + 1 else x

/-- The error after one pass of the loop of `CircleSteps`. -/
def circleNextErr (x y err : Int) : Int :=
  (if err ≤ y then err + (2 * circleNextY y err + 1) else err) +
    if circleNextX x y err = x then 0 else 2 * circleNextX x y err + 1

theorem circleLoop_succ (n : Nat) (x y err : Int) :
    circleLoop (n + 1) x y err =
      ⟨x, y⟩ ::
        if circleNextX x y err > 0 then []
        else circleLoop n (circleNextX x y err) (circleNextY y err) (circleNextErr x y err) := by
  simp only [circleLoop, circleNextErr, circleNextX, circleNextY]
  split_ifs <;> simp_all

theorem circleNextY_eq (y err : Int) : err ≤ y ∧ circleNextY y err = y + 1 ∨ y < err ∧ circleNextY y err = y := by
  unfold circleNextY
  omega

theorem circleNextX_eq (x y err : Int) : circleNextX x y err = x + 1 ∨ err ≤ x ∧ circleNextX x y err = x := by
  unfold circleNextX
  omega

theorem le_circleNextY (y err : Int) : y ≤ circleNextY y err := by
  have := circleNextY_eq y err
  omega

theorem le_circleNextX (x y err : Int) : x ≤ circleNextX x y err := by
  have := circleNextX_eq x y err
  omega

/-- The error stays that of the point one row and one column further. -/
theorem circleNextErr_eq (x y err : Int) :
    circleNextErr x y err - (circleNextX x y err + 1) ^ 2 - (circleNextY y err + 1) ^ 2 =
      err - (x + 1) ^ 2 - (y + 1) ^ 2 := by
  unfold circleNextErr
  obtain ⟨hle, hy⟩ | ⟨hlt, hy⟩ := circleNextY_eq y err <;> obtain hx | ⟨-, hx⟩ := circleNextX_eq x y err <;>
    rw [hx, hy]
  · rw [if_pos hle, if_neg (by omega)]; ring
  · rw [if_pos hle, if_pos rfl]; ring
  · rw [if_neg hlt.not_ge, if_neg (by omega)]; ring
  · rw [if_neg hlt.not_ge, if_pos rfl]; ring

/-- The loop stands at an offset within the radius, left of or on the centre column and on or below the centre row, with
the error of the point one row and one column further. -/
structure CircleAt (r : Nat) (x y err : Int) : Prop where
  left : -(r : Int) ≤ x
  right : x ≤ 0
  low : 0 ≤ y
  high : y ≤ r
  error : err - (x + 1) ^ 2 - (y + 1) ^ 2 = -(r : Int) ^ 2

theorem circleAt_start (r : Nat) : CircleAt r (-(r : Int)) 0 (2 - 2 * (r : Int)) :=
  ⟨le_rfl, by omega, le_rfl, by omega, by ring⟩

section
variable {r : Nat} {x y err : Int}

/-- A row is gone to only while the point there is no farther than the radius. -/
theorem CircleAt.high_next (h : CircleAt r x y err) : circleNextY y err ≤ r := by
  obtain ⟨hle, hy⟩ | ⟨-, hy⟩ := circleNextY_eq y err
  · have herr := h.error
    have hlow := h.low
    rw [hy]
    by_contra hgt
    nlinarith [sq_nonneg (x + 1)]
  · exact hy.trans_le h.high

theorem CircleAt.next (h : CircleAt r x y err) (hgo : circleNextX x y err ≤ 0) :
    CircleAt r (circleNextX x y err) (circleNextY y err) (circleNextErr x y err) where
  left := h.left.trans (le_circleNextX ..)
  right := hgo
  low := h.low.trans (le_circleNextY ..)
  high := h.high_next
  error := (circleNextErr_eq x y err).trans h.error

/-- Every pass steps a row or a column. -/
theorem CircleAt.progress (h : CircleAt r x y err) : x + y + 1 ≤ circleNextX x y err + circleNextY y err := by
  have hx := circleNextX_eq x y err
  have hy := circleNextY_eq y err
  have hxy := h.right.trans h.low
  omega

/-- Fuel for the rows and columns that are left is fuel enough. -/
theorem CircleAt.circleLoop_add (h : CircleAt r x y err) {n : Nat} (hn : r - x - y < n) (m : Nat) :
    circleLoop (n + m) x y err = circleLoop n x y err := by
  induction n generalizing x y err with
  | zero =>
    have hright := h.right
    have hhigh := h.high
    omega
  | succ n ih =>
    rw [Nat.add_right_comm, circleLoop_succ, circleLoop_succ]
    split_ifs with hend
    · rfl
    · have hprogress := h.progress
      rw [ih (h.next (not_lt.1 hend)) (by omega)]

/-- What holds where the loop stands, and is kept by a pass that goes on, holds of every offset emitted. -/
theorem mem_circleLoop_induction {I : Int → Int → Int → Prop}
    (hpass : ∀ x y err, I x y err → circleNextX x y err ≤ 0 →
      I (circleNextX x y err) (circleNextY y err) (circleNextErr x y err))
    {n : Nat} (h : I x y err) {p : Point} (hp : p ∈ circleLoop n x y err) : ∃ e, I p.x p.y e := by
  induction n generalizing x y err with
  | zero => exact absurd hp List.not_mem_nil
  | succ n ih =>
    rw [circleLoop_succ] at hp
    obtain rfl | hp := List.mem_cons.1 hp
    · exact ⟨err, h⟩
    · split_ifs at hp with hend
      · exact absurd hp List.not_mem_nil
      · exact ih (hpass x y err h (not_lt.1 hend)) hp

theorem length_circleLoop_le (n : Nat) (x y err : Int) : (circleLoop n x y err).length ≤ n := by
  induction n generalizing x y err with
  | zero => exact le_rfl
  | succ n ih =>
    rw [circleLoop_succ, List.length_cons]
    split_ifs
    · exact Nat.succ_le_succ n.zero_le
    · exact Nat.succ_le_succ (ih ..)

end

theorem circleAt_of_mem_circleSteps {r : Nat} {p : Point} (hp : p ∈ circleSteps r) :
    ∃ err, CircleAt r p.x p.y err :=
  mem_circleLoop_induction (fun _ _ _ h hgo => h.next hgo) (circleAt_start r) hp

/-- Settles O41: each pass steps a row or a column, and no row beyond the radius is gone to. -/
theorem circleStepsEndInsideTheRadius : Obligations.CircleStepsEndInsideTheRadius := by
  refine fun r n => ⟨(circleAt_start r).circleLoop_add (by omega) n, length_circleLoop_le .., fun p hp => ?_⟩
  obtain ⟨err, h⟩ := circleAt_of_mem_circleSteps hp
  exact ⟨h.left, h.right, h.low, h.high⟩

/-! ## CIRCLE and FILLCIRCLE (R162, R164) -/

theorem outOfBounds_eq_false_iff {cfg : Config} {x y : Nat} :
    outOfBounds cfg x y = false ↔ x < cfg.width ∧ y < cfg.height := by
  simp only [outOfBounds, Bool.or_eq_false_iff, decide_eq_false_iff_not, not_le]

theorem paintedBy_paintAll {s : State} (hs : s.CanRun) (c : Color) (pts : List Point) :
    PaintedBy c (fun x y => ⟨x, y⟩ ∈ pts) s (s.begin.paintAll c pts) :=
  endFetch_paint_paintedBy hs c pts

/-- A command that plots a list of points behind the anchor guard (40_framebuffer.md R108) paints the list when its
anchor is in bounds, and no point when it is not. -/
theorem execute_guardedPaint {op : Byte} {legal : Bool} {s : State} (x y : Nat) (c : Color) (pts : List Point)
    (hl : legal = true) (hs : s.CanRun) :
    ∃ t,
      execute op legal (fun s => if outOfBounds s.cfg x y then s.complete .ok 0x00#8 else s.paintAll c pts) s = .next t ∧
      PaintedBy c (fun px py => x < s.cfg.width ∧ y < s.cfg.height ∧ ⟨px, py⟩ ∈ pts) s t := by
  refine ⟨_, execute_body hl hs.session, ?_⟩
  rw [State.begin_cfg]
  cases hb : outOfBounds s.cfg x y with
  | false =>
    obtain ⟨hx, hy⟩ := outOfBounds_eq_false_iff.1 hb
    exact (paintedBy_paintAll hs c pts).congr fun px py _ _ => by simp only [hx, hy, true_and]
  | true =>
    have hout : ¬ (x < s.cfg.width ∧ y < s.cfg.height) := fun h =>
      Bool.false_ne_true ((outOfBounds_eq_false_iff.2 h).symm.trans hb)
    exact (paintedBy_paintAll hs c []).congr fun px py _ _ => by
      simp only [List.not_mem_nil, ← and_assoc, hout, false_and]

/-- Settles O42: both commands are a list of points behind the anchor guard. -/
theorem circlesPaintTheirPoints : Obligations.CirclesPaintTheirPoints :=
  ⟨fun _ cx cy r c hs hw =>
    execute_guardedPaint (op := 0x16#8) cx.toNat cy.toNat (colorOf c) (circlePts cx.toNat cy.toNat r.toNat)
      ((colLegal_eq_wfCol c).trans hw) hs,
  fun _ cx cy r c hs hw =>
    execute_guardedPaint (op := 0x17#8) cx.toNat cy.toNat (colorOf c) (fillCirclePts cx.toNat cy.toNat r.toNat)
      ((colLegal_eq_wfCol c).trans hw) hs⟩

/-! ## The filled circle covers the outline (R164, conflict C4) -/

theorem mem_circlePts {cx cy : Int} {r : Nat} {q : Point} :
    q ∈ circlePts cx cy r ↔
      ∃ p ∈ circleSteps r, (q.x = cx - p.x ∨ q.x = cx + p.x) ∧ (q.y = cy + p.y ∨ q.y = cy - p.y) := by
  obtain ⟨qx, qy⟩ := q
  simp only [circlePts, List.mem_flatMap, List.mem_cons, List.not_mem_nil, or_false, Point.mk.injEq]
  refine exists_congr fun p => and_congr_right fun _ => ?_
  tauto

theorem mem_fillCirclePts {cx cy : Int} {r : Nat} {q : Point} :
    q ∈ fillCirclePts cx cy r ↔
      ∃ p ∈ circleSteps r, cx + p.x ≤ q.x ∧ q.x ≤ cx - p.x ∧ cy - p.y ≤ q.y ∧ q.y ≤ cy + p.y := by
  simp only [fillCirclePts, List.mem_flatMap, mem_upTo, mem_rowPts]
  refine exists_congr fun p => and_congr_right fun _ => ⟨?_, ?_⟩
  · rintro ⟨_, hy, rfl, hx⟩
    exact ⟨hx.1, hx.2, hy⟩
  · rintro ⟨hx, hx', hy⟩
    exact ⟨q.y, hy, rfl, hx, hx'⟩

theorem circleSteps_zero : circleSteps 0 = [⟨0, 0⟩] := by decide

/-- The loop starts at the leftmost point of the circle. -/
theorem left_mem_circleSteps (r : Nat) : ⟨-(r : Int), 0⟩ ∈ circleSteps r := by
  rw [circleSteps, circleLoop_succ]
  exact List.mem_cons_self

/-- The first pass of a circle that is no point steps a row, and no pass steps back. -/
theorem centre_notMem_circleSteps {r : Nat} (hr : 1 ≤ r) : ⟨0, 0⟩ ∉ circleSteps r := by
  intro hp
  rw [circleSteps, circleLoop_succ, List.mem_cons] at hp
  obtain hstart | hp := hp
  · have := (Point.mk.inj hstart).1
    omega
  · split_ifs at hp with hend
    · exact absurd hp List.not_mem_nil
    · have hfirst : circleNextY 0 (2 - 2 * (r : Int)) = 1 := if_pos (by omega)
      obtain ⟨-, hrow⟩ :=
        mem_circleLoop_induction (I := fun _ y _ => 1 ≤ y) (fun _ _ _ h _ => h.trans (le_circleNextY ..)) hfirst.ge hp
      exact absurd hrow (by decide)

/-- Settles O43: the symmetric points of a step are the corners of its rectangle, and every rectangle holds the centre. -/
theorem filledCircleCoversTheOutline : Obligations.FilledCircleCoversTheOutline := by
  refine fun cx cy r => ⟨fun q hq => ?covers, fun hr => ⟨?centreFilled, fun hq => ?centreFree⟩,
    fun q => ?pointOutline, fun q => ?pointFilled⟩
  case covers =>
    obtain ⟨p, hp, hx, hy⟩ := mem_circlePts.1 hq
    obtain ⟨err, h⟩ := circleAt_of_mem_circleSteps hp
    have hright := h.right
    have hlow := h.low
    exact mem_fillCirclePts.2 ⟨p, hp, by omega⟩
  case centreFilled => exact mem_fillCirclePts.2 ⟨_, left_mem_circleSteps r, by dsimp only; omega⟩
  case centreFree =>
    obtain ⟨⟨px, py⟩, hp, hx, hy⟩ := mem_circlePts.1 hq
    obtain rfl : px = 0 := by dsimp only at hx; omega
    obtain rfl : py = 0 := by dsimp only at hy; omega
    exact centre_notMem_circleSteps hr hp
  case pointOutline =>
    obtain ⟨qx, qy⟩ := q
    simp [mem_circlePts, circleSteps_zero]
  case pointFilled =>
    obtain ⟨qx, qy⟩ := q
    simp only [mem_fillCirclePts, circleSteps_zero, List.mem_singleton, exists_eq_left, Point.mk.injEq]
    omega

end Sys2Proof.Machine
end

section
/-! PROOFS. Arcs (43_circles_arcs.md, sections 2 to 4): the sample angles (R167, R172), the sine table by quadrant (R170,
R171), the sample points (R172); ARC (R174) and ARCRL (R175) paint their lines. -/

namespace Sys2Proof.Machine

/-! ## Angles and segments (R165 to R167) -/

theorem norm360_range (a : Nat) : 1 ≤ norm360 a ∧ norm360 a ≤ 360 ∧ norm360 a % 360 = a % 360 := by
  unfold norm360
  split <;> omega

/-- The segment count is `t / 10` rounded half up. -/
theorem segCount_bounds (t : Nat) : 10 * segCount t ≤ t + 5 ∧ t + 5 < 10 * segCount t + 10 := by
  unfold segCount
  omega

theorem sampleAngle_noSegment (s t k : Nat) : sampleAngle s t 0 k = s := if_pos rfl

theorem sampleAngle_of_pos {n : Nat} (hn : 1 ≤ n) (s t k : Nat) :
    sampleAngle s t n k = s + (2 * k * t + n) / (2 * n) := if_neg (by omega)

theorem sampleAngle_first (s t n : Nat) : sampleAngle s t n 0 = s := by
  obtain rfl | hn := n.eq_zero_or_pos
  · exact sampleAngle_noSegment ..
  · rw [sampleAngle_of_pos hn, Nat.div_eq_of_lt (by omega), Nat.add_zero]

theorem sampleAngle_last {n : Nat} (hn : 1 ≤ n) (s t : Nat) : sampleAngle s t n n = s + t := by
  rw [sampleAngle_of_pos hn, Nat.mul_add_div (by omega), Nat.div_eq_of_lt (by omega), Nat.add_zero]

/-- A sample angle is its share `k t / n` of the sweep past the start, rounded half up. -/
theorem sampleAngle_nearest {n : Nat} (hn : 1 ≤ n) (s t k : Nat) :
    s ≤ sampleAngle s t n k ∧ 2 * n * (sampleAngle s t n k - s) ≤ 2 * k * t + n ∧
      2 * k * t + n < 2 * n * (sampleAngle s t n k - s) + 2 * n := by
  rw [sampleAngle_of_pos hn, Nat.add_sub_cancel_left]
  exact ⟨Nat.le_add_right .., Nat.mul_div_le .., Nat.lt_mul_div_succ _ (by omega)⟩

/-! ## The sine table (R170) and its quadrants (R171) -/

theorem sinRom_le : ∀ v ∈ sinRom, v ≤ 16384 := by decide

theorem sinq_range (d : Nat) : 0 ≤ sinq d ∧ sinq d ≤ 16384 := by
  refine ⟨Int.natCast_nonneg _, Int.ofNat_le.2 ?_⟩
  obtain hd | hd := lt_or_ge d sinRom.length
  · rw [List.getD_eq_getElem _ _ hd]
    exact sinRom_le _ (List.getElem_mem hd)
  · rw [List.getD_eq_default _ _ hd]
    exact Nat.zero_le _

theorem sinq_lt_succ : ∀ d < 90, sinq d < sinq (d + 1) := by decide

theorem sinq_sq_add_sq : ∀ d ≤ 90, (sinq d ^ 2 + sinq (90 - d) ^ 2 - 16384 ^ 2).natAbs ≤ 2 * 16384 := by decide

theorem sinQ_add_360 (t : Nat) : sinQ (t + 360) = sinQ t := by
  rw [sinQ, Nat.add_mod_right]
  rfl

section
variable {d : Nat} (hd : d ≤ 90)
include hd

theorem sinQ_rising : sinQ d = sinq d := by
  rw [sinQ, Nat.mod_eq_of_lt (by omega)]
  exact if_pos hd

theorem sinQ_falling : sinQ (180 - d) = sinq d := by
  obtain rfl | hlt := hd.eq_or_lt
  · rfl
  · rw [sinQ, Nat.mod_eq_of_lt (by omega), if_neg (by omega), if_pos (by omega), Nat.sub_sub_self (by omega)]

theorem sinQ_negative_falling : sinQ (180 + d) = -sinq d := by
  obtain rfl | hpos := d.eq_zero_or_pos
  · rfl
  · rw [sinQ, Nat.mod_eq_of_lt (by omega), if_neg (by omega), if_neg (by omega), if_pos (by omega),
      Nat.add_sub_cancel_left]

theorem sinQ_negative_rising : sinQ (360 - d) = -sinq d := by
  obtain rfl | hpos := d.eq_zero_or_pos
  · rfl
  obtain rfl | hlt := hd.eq_or_lt
  · rfl
  · rw [sinQ, Nat.mod_eq_of_lt (by omega), if_neg (by omega), if_neg (by omega), if_neg (by omega),
      Nat.sub_sub_self (by omega)]

end

theorem natAbs_sinQ_le (t : Nat) : (sinQ t).natAbs ≤ 16384 := by
  have hbound (d : Nat) : (sinq d).natAbs ≤ 16384 ∧ (-sinq d).natAbs ≤ 16384 := by
    have := sinq_range d
    omega
  rw [sinQ]
  split_ifs
  · exact (hbound _).1
  · exact (hbound _).1
  · exact (hbound _).2
  · exact (hbound _).2

/-! ## Sample points (R172) -/

/-- `ROff` is the rounded quotient of R146. -/
theorem rOff_eq_rdiv (r : Nat) (s : Int) : rOff r s = rdiv (r * s) 16384 := by
  have hquot : (2 * ((r * s.natAbs : Nat) : Int) + 16384) / (2 * 16384) = ((r * s.natAbs + 8192) / 16384 : Nat) := by
    omega
  rw [rOff, rdiv, Int.natAbs_mul, Int.natAbs_natCast, hquot]
  obtain hneg | rfl | hpos := lt_trichotomy s 0
  · obtain rfl | hr := r.eq_zero_or_pos
    · simp
    · rw [Int.sign_eq_neg_one_of_neg hneg, if_neg (not_le.2 (Int.mul_neg_of_pos_of_neg (by omega) hneg)), neg_one_mul]
  · simp
  · rw [Int.sign_eq_one_of_pos hpos, if_pos (by positivity), one_mul]

theorem natAbs_rOff_le {r : Nat} {s : Int} (hs : s.natAbs ≤ 16384) : (rOff r s).natAbs ≤ r := by
  have hmul : r * s.natAbs ≤ r * 16384 := Nat.mul_le_mul_left r hs
  have hquot : (r * s.natAbs + 8192) / 16384 ≤ r := by omega
  rw [rOff, Int.natAbs_mul, Int.natAbs_natCast]
  calc s.sign.natAbs * ((r * s.natAbs + 8192) / 16384) ≤ 1 * ((r * s.natAbs + 8192) / 16384) :=
        Nat.mul_le_mul_right _ (by rw [Int.natAbs_sign]; split <;> omega)
    _ ≤ r := by rwa [one_mul]

/-- A sample lies at most the radius from the centre, in its column and in its row. -/
theorem samplePoint_near (cx cy : Int) (r s t k : Nat) :
    ((samplePoint cx cy r s t k).x - cx).natAbs ≤ r ∧ ((samplePoint cx cy r s t k).y - cy).natAbs ≤ r := by
  rw [samplePoint, add_sub_cancel_left, add_sub_cancel_left]
  exact ⟨natAbs_rOff_le (natAbs_sinQ_le _), natAbs_rOff_le (natAbs_sinQ_le _)⟩

/-- Settles O44: angles and offsets by their rounded quotients, sines by the table and its quadrants. -/
theorem arcGeometryStaysInRange : Obligations.ArcGeometryStaysInRange := by
  refine ⟨norm360_range, fun t h1 h360 => ?segments, fun s t => ⟨sampleAngle_first .., fun h5 => ?last⟩,
    fun s t n k => ⟨sampleAngle_noSegment .., fun hn => sampleAngle_nearest hn ..⟩, fun t => ⟨sinQ_add_360 t, rfl⟩,
    fun d hd => ⟨sinQ_rising hd, sinQ_falling hd, sinQ_negative_falling hd, sinQ_negative_rising hd⟩,
    ⟨rfl, rfl, rfl, rfl, rfl⟩, sinq_lt_succ, sinq_sq_add_sq, fun r s => ?rounding, fun _ _ _ _ _ _ => rfl,
    fun cx cy r s t k => ?bytes⟩
  case segments =>
    have hseg := segCount_bounds t
    omega
  case last =>
    have hseg := segCount_bounds t
    exact sampleAngle_last (by omega) ..
  case rounding =>
    have hnear := rdiv_nearest (r * s) (show (0 : Int) < 16384 by decide)
    rw [← rOff_eq_rdiv] at hnear
    omega
  case bytes =>
    have hnear := samplePoint_near cx.toNat cy.toNat r.toNat s t k
    have hcx := cx.isLt
    have hcy := cy.isLt
    have hr := r.isLt
    omega

/-! ## ARC and ARCRL (R174, R175) -/

/-- The chords of an arc are those of the polyline through its samples. -/
theorem mem_arcChords {cx cy : Int} {r start sweep : Nat} {q : Point} :
    q ∈ arcChords cx cy r start sweep ↔
      ∃ k, 1 ≤ k ∧ k ≤ segCount sweep ∧
        q ∈ linePts (samplePoint cx cy r start sweep (k - 1)) (samplePoint cx cy r start sweep k) := by
  refine (mem_polyPts (count := segCount sweep + 1)).trans ⟨?_, ?_⟩
  · rintro ⟨k, hk, hq⟩
    exact ⟨k + 1, by omega, by omega, hq⟩
  · rintro ⟨k, hpos, hk, hq⟩
    exact ⟨k - 1, by omega, by rwa [Nat.sub_add_cancel hpos]⟩

/-- Settles O45: ARC paints the list of its chords. -/
theorem arcPaintsItsChords : Obligations.ArcPaintsItsChords := by
  intro s cx cy r start sweep c hs hw
  obtain ⟨t, hexec, hpaint⟩ :=
    execute_paintAll (op := 0x18#8) (colorOf c) (arcPts cx cy r start sweep) ((colLegal_eq_wfCol c).trans hw) hs
  exact ⟨t, hexec, hpaint.congr fun x y _ _ => mem_arcChords⟩

/-- Settles O46: ARCRL paints the list of ARC and the lists of its two radius lines. -/
theorem arcRadiusLinesPaintOutward : Obligations.ArcRadiusLinesPaintOutward := by
  intro s cx cy r start sweep c hs hw
  obtain ⟨t, hexec, hpaint⟩ :=
    execute_paintAll (op := 0x19#8) (colorOf c) (arcPts cx cy r start sweep ++ radiusPts cx cy r start sweep)
      ((colLegal_eq_wfCol c).trans hw) hs
  refine ⟨t, hexec, hpaint.congr fun x y _ _ => List.mem_append.trans ?_⟩
  exact or_congr mem_arcChords List.mem_append

end Sys2Proof.Machine
end

section
/-! PROOFS. Text (44_text_bitmap.md, sections 1 to 3): the register commands, the tests of a character write (R200,
R254), the glyph it draws and the bytes it reads, and WRSTR as the sequence of its character writes (R204). -/

namespace Sys2Proof.Machine

/-! ## SETFONT, SETCURSOR and GETDISP (R190, R194, R239) -/

/-- Bit 0 of legal flags says whether they are 1. -/
theorem flagBit0_eq_beq_one (f : Byte) (hf : f.toNat ≤ 1) : flagBit0 f = (f == 1) := by
  revert f; decide

theorem exec_setfont {s : State} {w h flags : Byte} {data cw : Word} (hs : s.session = .ready)
    (hw : (Instr.setfont w h flags data cw).wf = true) :
    exec (.setfont w h flags data cw) s = .next
      { s with fontValid := true, fontW := w, fontH := h, fontCwen := (flags == 1), fontData := data, fontCw := cw,
               last := .ok, result := 0x00#8, busy := false } := by
  obtain ⟨-, hflags⟩ : _ ∧ flags.toNat ≤ 1 := by simpa only [Instr.wf, wfFont, Bool.and_eq_true, decide_eq_true_eq] using hw
  rw [exec, execSetfont, execute_body ((fontLegal_eq_wfFont w h flags).trans hw) hs, flagBit0_eq_beq_one flags hflags]
  rfl

/-- Settles O47: each of the three is a body that writes its registers and completes. -/
theorem registerCommandsWriteTheirRegisters : Obligations.RegisterCommandsWriteTheirRegisters := by
  refine ⟨fun s w h flags data cw => exec_setfont, fun s x y hs => ?setcursor, fun s hs => ?getdisp⟩
  case setcursor => rw [exec, execSetcursor, execute_body rfl hs]; rfl
  case getdisp => rw [exec, execGetdisp, execute_body rfl hs]; rfl

/-! ## The tests of a character write (R200, R254) -/

/-- The first test that fails decides the status. -/
theorem glyphRefusal_eq_some_iff {s : State} {ch : Nat} {st : Status} :
    glyphRefusal s ch = some st ↔
      s.fontValid = false ∧ st = .illegal ∨
      s.fontValid = true ∧ (ch < 32 ∨ 126 < ch) ∧ st = .unsupportedGlyph ∨
      s.fontValid = true ∧ 32 ≤ ch ∧ ch ≤ 126 ∧
        (s.cfg.width < s.curx.toNat + s.fontW.toNat ∨ s.cfg.height < s.cury.toNat + s.fontH.toNat) ∧ st = .rangeError := by
  have hprintable : (32 ≤ ch ∧ ch ≤ 126) ↔ ¬ (ch < 32 ∨ 126 < ch) := by omega
  rw [← and_assoc (a := 32 ≤ ch), hprintable]
  unfold glyphRefusal
  split_ifs with hfont hch hfit
  · simp [hfont, eq_comm]
  · simp [hfont, hch, eq_comm]
  · simp [hfont, hch, hfit, eq_comm]
  · simp [hfont, hch, hfit]

theorem ne_ok_of_glyphRefusal {s : State} {ch : Nat} {st : Status} (h : glyphRefusal s ch = some st) : st ≠ .ok := by
  obtain ⟨-, rfl⟩ | ⟨-, -, rfl⟩ | ⟨-, -, -, -, rfl⟩ := glyphRefusal_eq_some_iff.1 h <;> exact nofun

/-- The tests that character `ch` passes in state `s`: a font, a printable character, and a cell that fits. -/
structure CharFits (s : State) (ch : Nat) : Prop where
  font : s.fontValid = true
  printable : 32 ≤ ch ∧ ch ≤ 126
  columns : s.curx.toNat + s.fontW.toNat ≤ s.cfg.width
  rows : s.cury.toNat + s.fontH.toNat ≤ s.cfg.height

theorem CharFits.refusal_eq_none {s : State} {ch : Nat} (h : CharFits s ch) : glyphRefusal s ch = none := by
  obtain ⟨hfont, hch, hx, hy⟩ := h
  rw [glyphRefusal, if_neg (by simp [hfont]), if_neg (by omega), if_neg (by omega)]

/-! ## The bytes of a glyph (R192, R56) -/

theorem memRead_two_ok {m : Memory} {a : Nat} {lo hi : Byte} (hlo : srcRead m a = .ok lo) (hhi : srcRead m (a + 1) = .ok hi) :
    memRead m a 2 = .ok (lo.toNat + 2 ^ 8 * hi.toNat) := by
  rw [memRead_two, hlo]
  simp only [hhi]
  rfl

theorem memRead_two_fault {m : Memory} {a j : Nat} (h : FirstUnreadable m a 2 j) : memRead m a 2 = .error (a + j) := by
  obtain ⟨hj, hread, hbad⟩ := h
  have hbad := srcRead_of_not_readable hbad
  rw [memRead_two]
  obtain rfl | rfl : j = 0 ∨ j = 1 := by omega
  · simp only [Nat.add_zero] at hbad ⊢
    simp only [hbad]
  · obtain ⟨b, hb⟩ : Readable m a := hread 0 Nat.one_pos
    simp only [hb, hbad]

/-- The address of the first glyph byte of `ch` (R192); row `i` starts `2 * i` bytes after it. -/
def glyphBase (s : State) (ch : Nat) : Nat := s.fontData.toNat + 2 * ((ch - 32) * s.fontH.toNat)

theorem glyphRowAddr_eq (s : State) (ch i : Nat) : glyphRowAddr s ch i = glyphBase s ch + 2 * i := by
  rw [glyphRowAddr, glyphBase, Nat.mul_add, Nat.add_assoc]

/-- The framebuffer with rows `0` to `n - 1` of a glyph drawn. -/
def drawRows (s : State) (c : Color) (row : Nat → Nat) (n : Nat) (fb : List Byte) : List Byte :=
  (List.range n).foldl (fun fb i => drawGlyphRow s c i (row i) fb) fb

/-- A glyph whose bytes are all admitted is drawn row by row. -/
theorem drawGlyph_done {s : State} {ch : Nat} {lo hi : Nat → Byte}
    (h : ∀ i < s.fontH.toNat, srcRead s.src (glyphRowAddr s ch i) = .ok (lo i) ∧
      srcRead s.src (glyphRowAddr s ch i + 1) = .ok (hi i)) (c : Color) :
    drawGlyph s c ch = .done (drawRows s c (fun i => (lo i).toNat + 2 ^ 8 * (hi i).toNat) s.fontH.toNat s.fb) := by
  refine forEach_done _ (fun i hi fb => ?_) s.fb
  obtain ⟨hlo, hhi⟩ := h i (List.mem_range.1 hi)
  simp only [memRead_two_ok hlo hhi]

/-- A glyph whose bytes are all readable is drawn. -/
theorem drawGlyph_of_readable {s : State} {ch : Nat} (h : ∀ k < 2 * s.fontH.toNat, Readable s.src (glyphBase s ch + k))
    (c : Color) : ∃ fb, drawGlyph s c ch = .done fb := by
  choose! byte hbyte using (h : ∀ k < 2 * s.fontH.toNat, ∃ b, srcRead s.src (glyphBase s ch + k) = .ok b)
  refine ⟨_, drawGlyph_done (lo := fun i => byte (2 * i)) (hi := fun i => byte (2 * i + 1)) (fun i hi => ?_) c⟩
  rw [glyphRowAddr_eq]
  exact ⟨hbyte (2 * i) (by omega), hbyte (2 * i + 1) (by omega)⟩

/-- A loop over `0` to `n - 1` whose iterations before `k` end and whose iteration `k` faults, ends with that fault. -/
theorem forEach_range_fault_of_exists {α : Type} {f : Nat → α → Fetched α} {n k a : Nat} (hk : k < n)
    (hdone : ∀ j < k, ∀ v, ∃ v', f j v = .done v') (hfault : ∀ v, ∃ v', f k v = .fault v' a) (v : α) :
    ∃ v', forEach f (List.range n) v = .fault v' a := by
  obtain ⟨before, after, hsplit⟩ := List.append_of_mem (List.mem_range.2 hk)
  have hlt : ∀ j ∈ before, j < k := fun j hj =>
    (List.pairwise_append.1 (hsplit ▸ List.pairwise_lt_range)).2.2 j hj k List.mem_cons_self
  choose! g hg using hdone
  obtain ⟨v', hv'⟩ := hfault (before.foldl (fun v j => g j v) v)
  exact ⟨v', by rw [hsplit, forEach_fault before k after (fun j hj => hg j (hlt j hj)), hv']⟩

/-- A glyph stops at its first byte that is not readable: byte `k` is of row `k / 2`. -/
theorem drawGlyph_fault {s : State} {ch k : Nat} (h : FirstUnreadable s.src (glyphBase s ch) (2 * s.fontH.toNat) k)
    (c : Color) : ∃ fb, drawGlyph s c ch = .fault fb (glyphBase s ch + k) := by
  obtain ⟨hk, hread, hbad⟩ := h
  have hfirst : FirstUnreadable s.src (glyphBase s ch + 2 * (k / 2)) 2 (k % 2) := by
    refine ⟨Nat.mod_lt k Nat.two_pos, fun j hj => ?_, ?_⟩
    · rw [Nat.add_assoc]
      exact hread _ (by omega)
    · rwa [Nat.add_assoc, Nat.div_add_mod]
  refine forEach_range_fault_of_exists (k := k / 2) (by omega) (fun i hi fb => ?drawn) (fun fb => ⟨fb, ?faulted⟩) s.fb
  case drawn =>
    obtain ⟨lo, hlo⟩ := hread (2 * i) (by omega)
    obtain ⟨hi', hhi⟩ := hread (2 * i + 1) (by omega)
    exact ⟨_, by rw [glyphRowAddr_eq, memRead_two_ok hlo hhi]⟩
  case faulted =>
    simp only [glyphRowAddr_eq, memRead_two_fault hfirst, Nat.add_assoc, Nat.div_add_mod]

theorem drawGlyph_length (s : State) (c : Color) (ch : Nat) : (drawGlyph s c ch).value.length = s.fb.length := by
  obtain ⟨fb, hdraw, hl⟩ | ⟨fb, a, hdraw, hl, -⟩ := drawGlyph_cases s c ch
  · rwa [hdraw]
  · rwa [hdraw]

/-! ## The pixels of a glyph (R200) -/

section
variable {cfg : Config} {f : List Byte → Nat → List Byte} {x y n : Nat} (hlen : ∀ fb i, (f fb i).length = fb.length)
include hlen

theorem foldl_range_length (n : Nat) (fb : List Byte) : ((List.range n).foldl f fb).length = fb.length :=
  List.foldlRecOn (motive := fun fb' : List Byte => fb'.length = fb.length) _ _ rfl fun _ h _ _ => (hlen ..).trans h

/-- Where only step `k` of a drawing loop sets a pixel, the pixel is as step `k` sets it. -/
theorem pixel_foldl_range {k : Nat} {b : Bool} {fb : List Byte} (hl : fb.length = cfg.bufSize)
    (hstep : ∀ i < n, ∀ fb, fb.length = cfg.bufSize → pixel cfg (f fb i) x y = if i = k then b else pixel cfg fb x y) :
    pixel cfg ((List.range n).foldl f fb) x y = if k < n then b else pixel cfg fb x y := by
  induction n with
  | zero => rfl
  | succ n ih =>
    rw [List.range_succ, List.foldl_append, List.foldl_cons, List.foldl_nil,
      hstep n n.lt_succ_self _ ((foldl_range_length hlen n fb).trans hl), ih fun i hi => hstep i (Nat.lt_succ_of_lt hi)]
    obtain hlt | rfl | hgt := Nat.lt_trichotomy k n
    · simp [hlt, hlt.ne', Nat.lt_succ_of_lt hlt]
    · simp
    · simp [hgt.ne, Nat.not_lt_of_gt hgt, Nat.not_lt.2 hgt]

/-- A pixel that no step of a drawing loop sets is as before. -/
theorem pixel_foldl_range_kept {fb : List Byte} (hl : fb.length = cfg.bufSize)
    (hstep : ∀ i < n, ∀ fb, fb.length = cfg.bufSize → pixel cfg (f fb i) x y = pixel cfg fb x y) :
    pixel cfg ((List.range n).foldl f fb) x y = pixel cfg fb x y :=
  (pixel_foldl_range (k := n) (b := false) hlen hl fun i hi fb hl => (hstep i hi fb hl).trans (if_neg hi.ne).symm).trans
    (if_neg n.lt_irrefl)

end

theorem Color.isOn_ite_other (b : Bool) (c : Color) : (if b then c else c.other).isOn = if b then c.isOn else !c.isOn := by
  cases b <;> cases c <;> rfl

section
variable {s : State} {fb : List Byte} (hc : s.cfg.wf = true) (hl : fb.length = s.cfg.bufSize)
include hc hl

/-- A pixel of a glyph row shows what its own column plots. -/
theorem pixel_drawGlyphRow_inside (c : Color) {i j : Nat} (row : Nat) (hj : j < s.fontW.toNat)
    (hx : s.curx.toNat + j < s.cfg.width) (hy : s.cury.toNat + i < s.cfg.height) :
    pixel s.cfg (drawGlyphRow s c i row fb) (s.curx.toNat + j) (s.cury.toNat + i) =
      if row.testBit (15 - j) then c.isOn else !c.isOn := by
  refine (pixel_foldl_range (k := j) (fun _ _ => plot_length ..) hl fun m _ fb hl => ?_).trans (if_pos hj)
  have hpoint : (⟨s.curx.toNat + m, s.cury.toNat + i⟩ : Point) = ⟨(s.curx.toNat + j : Nat), (s.cury.toNat + i : Nat)⟩ ↔ m = j := by
    rw [Point.mk.injEq]
    omega
  rw [pixel_plot hc hl _ _ hx hy, Color.isOn_ite_other]
  by_cases hm : m = j
  · rw [if_pos (hpoint.2 hm), if_pos hm, hm]
  · rw [if_neg (hpoint.not.2 hm), if_neg hm]

/-- A glyph row leaves the pixels of the other rows, and those left and right of the cell. -/
theorem pixel_drawGlyphRow_outside (c : Color) (i row : Nat) {x y : Nat} (hx : x < s.cfg.width) (hy : y < s.cfg.height)
    (hout : x < s.curx.toNat ∨ s.curx.toNat + s.fontW.toNat ≤ x ∨ y ≠ s.cury.toNat + i) :
    pixel s.cfg (drawGlyphRow s c i row fb) x y = pixel s.cfg fb x y := by
  refine pixel_foldl_range_kept (fun _ _ => plot_length ..) hl fun m hm fb hl => ?_
  have hpoint : (⟨s.curx.toNat + m, s.cury.toNat + i⟩ : Point) ≠ ⟨x, y⟩ := by
    rw [ne_eq, Point.mk.injEq]
    omega
  rw [pixel_plot hc hl _ _ hx hy, if_neg hpoint]

theorem pixel_drawRows_inside (c : Color) (row : Nat → Nat) {i j n : Nat} (hi : i < n) (hj : j < s.fontW.toNat)
    (hx : s.curx.toNat + j < s.cfg.width) (hy : s.cury.toNat + i < s.cfg.height) :
    pixel s.cfg (drawRows s c row n fb) (s.curx.toNat + j) (s.cury.toNat + i) =
      if (row i).testBit (15 - j) then c.isOn else !c.isOn := by
  refine (pixel_foldl_range (k := i) (fun _ _ => drawGlyphRow_length ..) hl fun m _ fb hl => ?_).trans (if_pos hi)
  by_cases hm : m = i
  · rw [if_pos hm, hm, pixel_drawGlyphRow_inside hc hl c (row i) hj hx hy]
  · rw [if_neg hm, pixel_drawGlyphRow_outside hc hl c m (row m) hx hy (by omega)]

theorem pixel_drawRows_outside (c : Color) (row : Nat → Nat) {n x y : Nat} (hx : x < s.cfg.width) (hy : y < s.cfg.height)
    (hout : x < s.curx.toNat ∨ s.curx.toNat + s.fontW.toNat ≤ x ∨ y < s.cury.toNat ∨ s.cury.toNat + n ≤ y) :
    pixel s.cfg (drawRows s c row n fb) x y = pixel s.cfg fb x y :=
  pixel_foldl_range_kept (fun _ _ => drawGlyphRow_length ..) hl fun m hm fb hl =>
    pixel_drawGlyphRow_outside hc hl c m (row m) hx hy (by omega)

end

/-! ## A character write (R200, R201) -/

theorem putGlyph_refused {s : State} {ch : Nat} {st : Status} (h : glyphRefusal s ch = some st) (c : Color) :
    putGlyph c ch s = .refused st := by
  simp only [putGlyph, h]

/-- A character that passes the tests is written: its glyph is drawn and its advance added to CURX. -/
theorem putGlyph_written {s : State} {c : Color} {ch : Nat} {fb : List Byte} {adv : Byte} (h : CharFits s ch)
    (hdraw : drawGlyph s c ch = .done fb) (hadv : glyphAdvance s ch = .ok adv) :
    putGlyph c ch s = .written { s with fb := fb, curx := s.curx + adv.zeroExtend 16 } := by
  simp only [putGlyph, h.refusal_eq_none, hdraw, hadv]
  rfl

theorem putGlyph_glyph_fault {s : State} {c : Color} {ch a : Nat} {fb : List Byte} (h : CharFits s ch)
    (hdraw : drawGlyph s c ch = .fault fb a) : putGlyph c ch s = .fault (s.withFb fb) a := by
  simp only [putGlyph, h.refusal_eq_none, hdraw]

theorem putGlyph_width_fault {s : State} {c : Color} {ch a : Nat} {fb : List Byte} (h : CharFits s ch)
    (hdraw : drawGlyph s c ch = .done fb) (hadv : glyphAdvance s ch = .error a) :
    putGlyph c ch s = .fault (s.withFb fb) a := by
  simp only [putGlyph, h.refusal_eq_none, hdraw, hadv]

/-- What a character advances by: FONT_W, or with a width table the byte read there (R200). -/
theorem glyphAdvance_ok {s : State} {ch : Nat} {adv : Byte}
    (h : if s.fontCwen then srcRead s.src (s.fontCw.toNat + (ch - 32)) = .ok adv else adv = s.fontW) :
    glyphAdvance s ch = .ok adv := by
  unfold glyphAdvance
  split_ifs at h ⊢ with hcwen
  · exact h
  · rw [h]

/-- The cursor after a written character: it does not wrap, since the cell ends within the panel. -/
theorem curx_advance {cfg : Config} (hc : cfg.wf = true) {x : Half} {w : Nat} (hx : x.toNat + w ≤ cfg.width) (adv : Byte) :
    (x + adv.zeroExtend 16).toNat = x.toNat + adv.toNat := by
  obtain ⟨-, hwidth, -⟩ := Config.wf_sizes hc
  have hadv := adv.isLt
  simp only [BitVec.toNat_add, BitVec.zeroExtend, BitVec.toNat_setWidth]
  omega

section
variable {s : State} {ch c : Byte} (hs : s.session = .ready) (hw : (Instr.wrchar ch c).wf = true)
include hs hw

theorem exec_wrchar_refused {st : Status} (h : putGlyph (colorOf c) ch.toNat s.begin = .refused st) :
    exec (.wrchar ch c) s = .next (s.begin.complete st 0x00#8) := by
  rw [exec, execWrchar, execute_body ((colLegal_eq_wfCol c).trans hw) hs, h]

theorem exec_wrchar_written {u : State} (h : putGlyph (colorOf c) ch.toNat s.begin = .written u) :
    exec (.wrchar ch c) s = .next (u.complete .ok ch) := by
  rw [exec, execWrchar, execute_body ((colLegal_eq_wfCol c).trans hw) hs, h]

theorem exec_wrchar_fault {u : State} {a : Nat} (h : putGlyph (colorOf c) ch.toNat s.begin = .fault u a) :
    exec (.wrchar ch c) s = .next (u.raise (.src a)) := by
  rw [exec, execWrchar, execute_body ((colLegal_eq_wfCol c).trans hw) hs, h]

end

/-- Settles O49: the first failing test refuses the character. -/
theorem refusedCharChangesNothing : Obligations.RefusedCharChangesNothing := by
  intro s ch c st hs hw hrefused
  have hrefusal : glyphRefusal s.begin ch.toNat = some st := glyphRefusal_eq_some_iff.2 hrefused
  rw [exec_wrchar_refused hs hw (putGlyph_refused hrefusal _)]
  rfl

/-- Settles O48: the glyph is drawn row by row, and each pixel of the cell is plotted once. -/
theorem writeCharDrawsTheGlyph : Obligations.WriteCharDrawsTheGlyph := by
  intro s ch c lo hi adv hs hw hfont _ hwidth hch hch' hx hy hrows hadv
  have hfits : CharFits s.begin ch.toNat := ⟨hfont, ⟨hch, hch'⟩, hx, hy⟩
  have hdraw : drawGlyph s.begin (colorOf c) ch.toNat = _ :=
    drawGlyph_done (lo := lo) (hi := hi) hrows (colorOf c)
  have hcurx : (s.curx + adv.zeroExtend 16).toNat = s.curx.toNat + adv.toNat := curx_advance hs.cfgLegal hx adv
  have hpanel := Config.wf_sizes hs.cfgLegal
  have hadvLt := adv.isLt
  refine ⟨_, exec_wrchar_written hs.session hw (putGlyph_written hfits hdraw (glyphAdvance_ok hadv)), rfl, ?size, hcurx,
    hcurx.trans_le (by omega), fun i j hi' hj => ?inside, fun x y hx hy hout => ?outside⟩
  case size => exact foldl_range_length (fun _ _ => drawGlyphRow_length ..) _ _
  case inside =>
    exact pixel_drawRows_inside (s := s.begin) hs.cfgLegal hs.fbSize (colorOf c) _ hi' hj
      (Nat.lt_of_lt_of_le (Nat.add_lt_add_left hj _) hx) (Nat.lt_of_lt_of_le (Nat.add_lt_add_left hi' _) hy)
  case outside => exact pixel_drawRows_outside (s := s.begin) hs.cfgLegal hs.fbSize (colorOf c) _ hx hy hout

/-- Settles O50: the glyph's bytes are read row by row, and the width byte after them. -/
theorem unreadableGlyphIsSrcFault : Obligations.UnreadableGlyphIsSrcFault := by
  intro s ch c hs hw hfont hch hch' hx hy
  have hfits : CharFits s.begin ch.toNat := ⟨hfont, ⟨hch, hch'⟩, hx, hy⟩
  have hlen := drawGlyph_length s.begin (colorOf c) ch.toNat
  refine ⟨fun k hk => ?glyph, fun hread hcwen hwidth => ?width⟩
  case glyph =>
    obtain ⟨fb, hdraw⟩ := drawGlyph_fault (s := s.begin) hk (colorOf c)
    rw [hdraw] at hlen
    exact ⟨_, exec_wrchar_fault hs.session hw (putGlyph_glyph_fault hfits hdraw), rfl, hlen⟩
  case width =>
    obtain ⟨fb, hdraw⟩ := drawGlyph_of_readable (s := s.begin) hread (colorOf c)
    rw [hdraw] at hlen
    have hadv : glyphAdvance s.begin ch.toNat = .error (s.fontCw.toNat + (ch.toNat - 32)) :=
      (if_pos hcwen).trans (srcRead_of_not_readable hwidth)
    exact ⟨_, exec_wrchar_fault hs.session hw (putGlyph_width_fault hfits hdraw hadv), rfl, hlen⟩

/-! ## A string write, a character at a time (R204) -/

section
variable {s : State} {a : Nat} (c : Color) (n : Nat)

theorem writeString_unreadable (h : ¬ Readable s.src a) : writeString c (n + 1) a s = s.raise (.src a) := by
  simp only [writeString, srcRead_of_not_readable h]

theorem writeString_terminator (h : srcRead s.src a = .ok 0x00#8) : writeString c (n + 1) a s = s.complete .ok 0x00#8 := by
  simp only [writeString, h, if_true]

variable {c} {ch : Byte} (h : srcRead s.src a = .ok ch) (hch : ch ≠ 0x00#8)
include h hch

theorem writeString_refused {st : Status} (hp : putGlyph c ch.toNat s = .refused st) :
    writeString c (n + 1) a s = s.complete st ch := by
  simp only [writeString, h, if_neg hch, hp]

theorem writeString_written {t : State} (hp : putGlyph c ch.toNat s = .written t) :
    writeString c (n + 1) a s = writeString c n (a + 1) t := by
  simp only [writeString, h, if_neg hch, hp]

theorem writeString_fault {t : State} {e : Nat} (hp : putGlyph c ch.toNat s = .fault t e) :
    writeString c (n + 1) a s = t.raise (.src e) := by
  simp only [writeString, h, if_neg hch, hp]

end

section
variable {s : State} {addr : Word} {c : Byte} (hs : s.session = .ready) (hw : (Instr.wrstr addr c).wf = true)
include hs hw

theorem exec_wrstr_noFont (hfont : s.fontValid = false) :
    exec (.wrstr addr c) s = .next { s with last := .illegal, result := 0x00#8, busy := false } := by
  rw [exec, execWrstr, execute_body ((colLegal_eq_wfCol c).trans hw) hs, if_pos (show s.begin.fontValid = false from hfont)]
  rfl

/-- With a font WRSTR is the string write over the addresses from `addr` to the top of the source space. -/
theorem exec_wrstr (hfont : s.fontValid = true) {n : Nat} (hn : addr.toNat + n = 2 ^ 32) :
    exec (.wrstr addr c) s = .next (writeString (colorOf c) n addr.toNat s.begin) := by
  have hfont : ¬ s.begin.fontValid = false := by simp [hfont]
  rw [exec, execWrstr, execute_body ((colLegal_eq_wfCol c).trans hw) hs, if_neg hfont, ← hn, Nat.add_sub_cancel_left]

end

/-- Settles O51: a string write and a character write go by the same ends of `PutGlyph`. -/
theorem writeStringWritesItsCharacters : Obligations.WriteStringWritesItsCharacters := by
  refine fun s addr c hs hw => ⟨exec_wrstr_noFont hs hw, fun hfont => ?_⟩
  obtain ⟨n, hn⟩ := Nat.exists_eq_add_of_lt addr.isLt
  have hexec := exec_wrstr hs hw hfont (n := n + 1) hn.symm
  refine ⟨fun ch hread => ⟨?terminator, fun hch t ht => ?character⟩, fun hbad => ⟨_, hexec, ?unreadable⟩⟩
  case terminator =>
    rintro rfl
    rw [hexec, writeString_terminator (s := s.begin) _ n hread]
    rfl
  case unreadable =>
    rw [writeString_unreadable (s := s.begin) _ n hbad]
    exact ⟨rfl, rfl⟩
  case character =>
    have hread : srcRead s.begin.src addr.toNat = .ok ch := hread
    have hwch : (Instr.wrchar ch c).wf = true := hw
    obtain ⟨st, hst, hp⟩ | ⟨-, fb, adv, -, -, -, hp⟩ | ⟨-, fb, e, -, -, hp⟩ := putGlyph_cases (colorOf c) ch.toNat s.begin
    · cases (exec_wrchar_refused hs hwch hp).symm.trans ht
      have hne := ne_ok_of_glyphRefusal hst
      rw [hexec, writeString_refused n hread hch hp]
      exact ⟨fun _ _ => rfl, nofun, fun _ hok => absurd hok hne, fun _ hok => absurd hok hne⟩
    · cases (exec_wrchar_written hs hwch hp).symm.trans ht
      rw [hexec, writeString_written n hread hch hp]
      refine ⟨fun _ hne => absurd rfl hne, nofun, fun _ _ hlt => ?_, fun _ _ htop => ?_⟩
      · have haddr : (addr + 1).toNat = addr.toNat + 1 := (BitVec.toNat_add addr 1).trans (Nat.mod_eq_of_lt hlt)
        have hnext := exec_wrstr (s := { s with fb := fb, curx := s.curx + adv.zeroExtend 16, busy := false })
          (addr := addr + 1) (n := n) hs hw hfont (by omega)
        rw [haddr] at hnext
        exact hnext.symm
      · obtain rfl : n = 0 := by omega
        rw [htop]
        exact ⟨_, rfl, rfl⟩
    · cases (exec_wrchar_fault hs hwch hp).symm.trans ht
      rw [hexec, writeString_fault n hread hch hp]
      exact ⟨nofun, fun _ => rfl, nofun, nofun⟩

/-! ## The result of a string write -/

/-- A string write that completes has RESULT `0x00` exactly when it completes OK: a refused character is not `0x00`. -/
theorem writeString_result_iff (c : Color) (n a : Nat) (s : State) (h : (writeString c n a s).busy = false) :
    (writeString c n a s).result = 0x00#8 ↔ (writeString c n a s).last = .ok := by
  induction n generalizing a s with
  | zero => cases h
  | succ n ih =>
    by_cases hread : Readable s.src a
    · obtain ⟨ch, hread⟩ := hread
      by_cases hch : ch = 0x00#8
      · subst hch
        simp [writeString_terminator c n hread]
      · obtain ⟨st, hst, hp⟩ | ⟨-, fb, adv, -, -, -, hp⟩ | ⟨-, fb, e, -, -, hp⟩ := putGlyph_cases c ch.toNat s
        · have hne := ne_ok_of_glyphRefusal hst
          simp [writeString_refused n hread hch hp, hch, hne]
        · rw [writeString_written n hread hch hp] at h ⊢
          exact ih _ _ h
        · rw [writeString_fault n hread hch hp] at h
          cases h
    · rw [writeString_unreadable c n hread] at h
      cases h

/-- Settles O53, by induction on the string. -/
theorem stringResultIsZeroExactlyOnSuccess : Obligations.StringResultIsZeroExactlyOnSuccess := by
  intro s t addr c hs hw hfont hexec hbusy
  cases (exec_wrstr hs hw hfont (Nat.add_sub_of_le addr.isLt.le)).symm.trans hexec
  exact writeString_result_iff _ _ _ _ hbusy

/-! ## A whole string -/

/-- The columns that the first `k` characters of a text advance over. -/
def textWidth (adv : Nat → Byte) (k : Nat) : Nat := ((List.range k).map fun j => (adv j).toNat).sum

theorem textWidth_succ (adv : Nat → Byte) (k : Nat) : textWidth adv (k + 1) = textWidth adv k + (adv k).toNat := by
  simp [textWidth, List.range_succ]

/-- At address `a` stands a printable character `ch` that can be written at column `x` and then advances by `adv`. -/
structure WritableChar (s : State) (a : Nat) (ch adv : Byte) (x : Nat) : Prop where
  byte : srcRead s.src a = .ok ch
  printable : 32 ≤ ch.toNat ∧ ch.toNat ≤ 126
  glyph : ∀ j < 2 * s.fontH.toNat, Readable s.src (glyphBase s ch.toNat + j)
  advance : if s.fontCwen then srcRead s.src (s.fontCw.toNat + (ch.toNat - 32)) = .ok adv else adv = s.fontW
  columns : x + s.fontW.toNat ≤ s.cfg.width

section
variable {s : State} (hc : s.cfg.wf = true) (hfont : s.fontValid = true)
  (hrows : s.cury.toNat + s.fontH.toNat ≤ s.cfg.height)
include hc hfont hrows

/-- A writable character is written, and the string write goes on after it. -/
theorem writeString_writable {a : Nat} {ch adv : Byte} {x : Half} (h : WritableChar s a ch adv x.toNat) (c : Color)
    (m : Nat) (fb : List Byte) :
    ∃ (fb' : List Byte) (x' : Half), fb'.length = fb.length ∧ x'.toNat = x.toNat + adv.toNat ∧
      writeString c (m + 1) a { s with fb := fb, curx := x } = writeString c m (a + 1) { s with fb := fb', curx := x' } := by
  obtain ⟨hbyte, hprintable, hglyph, hadv, hcolumns⟩ := h
  have hch : ch ≠ 0x00#8 := by
    rintro rfl
    exact absurd hprintable.1 (by decide)
  obtain ⟨fb', hdraw⟩ := drawGlyph_of_readable (s := { s with fb := fb, curx := x }) hglyph c
  have hlen := drawGlyph_length { s with fb := fb, curx := x } c ch.toNat
  rw [hdraw] at hlen
  exact ⟨fb', _, hlen, curx_advance hc hcolumns adv,
    writeString_written (s := { s with fb := fb, curx := x }) m hbyte hch
      (putGlyph_written ⟨hfont, hprintable, hcolumns, hrows⟩ hdraw (glyphAdvance_ok hadv))⟩

/-- A text of writable characters is written, and the string write goes on after it. -/
theorem writeString_text {a : Nat} {str adv : Nat → Byte} (c : Color) (n m : Nat)
    (h : ∀ k < n, WritableChar s (a + k) (str k) (adv k) (s.curx.toNat + textWidth adv k)) :
    ∃ (fb : List Byte) (x : Half), fb.length = s.fb.length ∧ x.toNat = s.curx.toNat + textWidth adv n ∧
      writeString c (m + n) a s = writeString c m (a + n) { s with fb := fb, curx := x } := by
  induction n generalizing m with
  | zero => exact ⟨s.fb, s.curx, rfl, rfl, rfl⟩
  | succ n ih =>
    obtain ⟨fb, x, hl, hx, hbefore⟩ := ih (m + 1) fun k hk => h k (Nat.lt_succ_of_lt hk)
    obtain ⟨fb', x', hl', hx', hlast⟩ := writeString_writable hc hfont hrows (hx ▸ h n n.lt_succ_self) c m fb
    refine ⟨fb', x', hl'.trans hl, ?_, ?_⟩
    · rw [hx', hx, textWidth_succ, Nat.add_assoc]
    · rw [Nat.add_comm n 1, ← Nat.add_assoc, hbefore, hlast, Nat.add_assoc, Nat.add_comm n 1]

end

/-- Settles O52: the text is written character by character, and then its terminator is read. -/
theorem writeStringAdvancesOverTheText : Obligations.WriteStringAdvancesOverTheText := by
  intro s addr c n str adv hs hw hfont _ htext hend hrows
  obtain ⟨hend', -⟩ := srcRead_eq_ok.1 hend
  obtain ⟨m, hm⟩ := Nat.exists_eq_add_of_lt hend'
  have hchars : ∀ k < n, WritableChar s.begin (addr.toNat + k) (str k) (adv k) (s.begin.curx.toNat + textWidth adv k) := by
    intro k hk
    obtain ⟨hbyte, hlow, hhigh, hglyph, hadv, hcolumns⟩ := htext k hk
    exact ⟨hbyte, ⟨hlow, hhigh⟩, hglyph, hadv, hcolumns⟩
  obtain ⟨fb, x, hl, hx, hwrite⟩ := writeString_text (s := s.begin) hs.cfgLegal hfont hrows (colorOf c) n (m + 1) hchars
  refine ⟨_, exec_wrstr hs.session hw hfont (n := m + 1 + n) (by omega), ?_⟩
  rw [hwrite, writeString_terminator (s := { s.begin with fb := fb, curx := x }) _ m hend]
  exact ⟨rfl, hl, hx⟩

end Sys2Proof.Machine
end

section
/-! PROOFS. BITMAP (44_text_bitmap.md R210): with every row byte admitted it paints the list of its set bits, and it stops
at the first row byte that is not admitted. -/

namespace Sys2Proof.Machine

/-- The points of the set bits of a bitmap whose bytes are `bits` (R210). -/
def bitmapPts (bits : Nat → Byte) (x y w h : Nat) : List Point :=
  (List.range h).flatMap fun j =>
    (List.range w).flatMap fun i =>
      if (bits (j * bitmapStride w + i / 8)).getLsbD (7 - i % 8) then [⟨x + i, y + j⟩] else []

theorem mem_bitmapPts {bits : Nat → Byte} {x y w h : Nat} {p : Point} :
    p ∈ bitmapPts bits x y w h ↔ ∃ i j : Nat, i < w ∧ j < h ∧ p.x = x + i ∧ p.y = y + j ∧
      (bits (j * bitmapStride w + i / 8)).getLsbD (7 - i % 8) = true := by
  simp only [bitmapPts, List.mem_flatMap, List.mem_range]
  constructor
  · rintro ⟨j, hj, i, hi, hp⟩
    split_ifs at hp with hbit
    · obtain rfl := List.mem_singleton.1 hp
      exact ⟨i, j, hi, hj, rfl, rfl, hbit⟩
    · exact absurd hp List.not_mem_nil
  · rintro ⟨i, j, hi, hj, hx, hy, hbit⟩
    refine ⟨j, hj, i, hi, ?_⟩
    rw [if_pos hbit]
    exact List.mem_singleton.2 (Point.ext hx hy)

/-- The byte of column `i` of row `j` is a byte of the bitmap. -/
theorem bitmapByte_lt {i j w h : Nat} (hi : i < w) (hj : j < h) : j * bitmapStride w + i / 8 < h * bitmapStride w := by
  have hcolumn : i / 8 < bitmapStride w := by
    unfold bitmapStride
    omega
  calc j * bitmapStride w + i / 8 < (j + 1) * bitmapStride w := by rw [Nat.add_mul, Nat.one_mul]; omega
    _ ≤ h * bitmapStride w := Nat.mul_le_mul_right _ hj

theorem blit_done {src : Memory} {addr w h : Nat} {bits : Nat → Byte}
    (hread : ∀ k < h * bitmapStride w, srcRead src (addr + k) = .ok (bits k)) (cfg : Config) (c : Color) (x y : Nat)
    (fb : List Byte) : blit cfg c src x y addr w h fb = .done (paint cfg c (bitmapPts bits x y w h) fb) := by
  rw [bitmapPts, paint_flatMap]
  refine forEach_done _ (fun j hj fb => ?_) fb
  rw [paint_flatMap]
  refine forEach_done _ (fun i hi fb => ?_) fb
  have hbyte := hread _ (bitmapByte_lt (List.mem_range.1 hi) (List.mem_range.1 hj))
  rw [Nat.add_assoc, readByte_ok hbyte]
  split_ifs <;> rfl

/-- A bitmap stops at its first byte that is not readable: byte `k` is read for the first of its pixels, in row
`k / stride`. -/
theorem blit_fault {src : Memory} {addr w h k : Nat} (hk : FirstUnreadable src addr (h * bitmapStride w) k) (cfg : Config)
    (c : Color) (x y : Nat) (fb : List Byte) : ∃ fb', blit cfg c src x y addr w h fb = .fault fb' (addr + k) := by
  obtain ⟨hlt, hread, hbad⟩ := hk
  choose! bits hbits using (hread : ∀ j < k, ∃ b, srcRead src (addr + j) = .ok b)
  have hstride : 0 < bitmapStride w := Nat.pos_of_ne_zero fun h0 => by simp [h0] at hlt
  have hrow : k / bitmapStride w < h := (Nat.div_lt_iff_lt_mul hstride).2 hlt
  have hcolumn : k % bitmapStride w < bitmapStride w := Nat.mod_lt _ hstride
  have hsplit : k / bitmapStride w * bitmapStride w + k % bitmapStride w = k := Nat.div_add_mod' ..
  refine forEach_range_fault_of_exists hrow (fun j hj fb => ?rowDrawn) (fun fb => ?rowFaults) fb
  case rowDrawn =>
    refine ⟨_, forEach_done (g := fun i fb =>
      if (bits (j * bitmapStride w + i / 8)).getLsbD (7 - i % 8) then plot cfg c ⟨x + i, y + j⟩ fb else fb) _
      (fun i hi fb => ?_) fb⟩
    have hbefore := bitmapByte_lt (List.mem_range.1 hi) hj
    rw [Nat.add_assoc, readByte_ok (hbits _ (by omega))]
  case rowFaults =>
    refine forEach_range_fault_of_exists (k := 8 * (k % bitmapStride w)) ?_ (fun i hi fb => ?pixelDrawn)
      (fun fb => ⟨fb, ?pixelFaults⟩) fb
    · unfold bitmapStride at hcolumn ⊢
      omega
    case pixelDrawn =>
      rw [Nat.add_assoc, readByte_ok (hbits _ (by omega))]
      exact ⟨_, rfl⟩
    case pixelFaults =>
      rw [Nat.mul_div_cancel_left _ (by decide : 0 < 8), Nat.add_assoc, hsplit]
      exact readByte_error (srcRead_of_not_readable hbad) fb _

theorem outOfBounds_eq_true_iff {cfg : Config} {x y : Nat} :
    outOfBounds cfg x y = true ↔ cfg.width ≤ x ∨ cfg.height ≤ y := by
  simp only [outOfBounds, Bool.or_eq_true, decide_eq_true_eq]

section
variable {s : State} {x y w h c : Byte} {addr : Word} (hs : s.session = .ready)
  (hw : (Instr.bitmap x y addr w h c).wf = true)
include hs hw

theorem exec_bitmap_outOfBounds (hout : s.cfg.width ≤ x.toNat ∨ s.cfg.height ≤ y.toNat) :
    exec (.bitmap x y addr w h c) s = .next { s with last := .ok, result := 0x00#8, busy := false } := by
  rw [exec, execBitmap, execute_body ((colLegal_eq_wfCol c).trans hw) hs, State.begin_cfg,
    if_pos (outOfBounds_eq_true_iff.2 hout)]
  rfl

theorem exec_bitmap_draws (hx : x.toNat < s.cfg.width) (hy : y.toNat < s.cfg.height) :
    exec (.bitmap x y addr w h c) s =
      .next (s.begin.endFetch (blit s.cfg (colorOf c) s.src x.toNat y.toNat addr.toNat w.toNat h.toNat s.fb)) := by
  have hanchor : outOfBounds s.cfg x.toNat y.toNat = false := outOfBounds_eq_false_iff.2 ⟨hx, hy⟩
  rw [exec, execBitmap, execute_body ((colLegal_eq_wfCol c).trans hw) hs, State.begin_cfg,
    if_neg (Bool.eq_false_iff.1 hanchor)]
  rfl

end

/-- Settles O54: a BITMAP whose anchor is on the panel ends as its blit does. -/
theorem bitmapPaintsItsSetBits : Obligations.BitmapPaintsItsSetBits := by
  refine fun s x y addr w h c hs hw => ⟨exec_bitmap_outOfBounds hs.session hw, fun hx hy => ?_⟩
  rw [exec_bitmap_draws hs.session hw hx hy]
  refine ⟨fun bits hread => ⟨_, rfl, ?painted⟩, fun k hk => ⟨_, rfl, ?faulted⟩⟩
  case painted =>
    rw [blit_done hread]
    exact (endFetch_paint_paintedBy hs _ _).congr fun px py _ _ => mem_bitmapPts
  case faulted =>
    have hl := blit_length s.cfg (colorOf c) s.src x.toNat y.toNat addr.toNat w.toNat h.toNat s.fb
    obtain ⟨fb, hfault⟩ := blit_fault hk s.cfg (colorOf c) x.toNat y.toNat s.fb
    rw [hfault] at hl ⊢
    exact endFetch_fault_srcFaulted _ hl

end Sys2Proof.Machine
end

section
/-! PROOFS. Session and transport (45_session_transport.md): a transport command by its answers, how many of its
transactions are answered OK and what comes after them; then SETCONTRAST (R235), SETDISP (R237), FLUSH (R231) and
INIT (R222, R223). -/

namespace Sys2Proof.Machine

/-! ## A transport command by its answers (20_memory.md R60) -/

/-- The transactions of a transport command whose every transaction is answered OK. -/
def txTrace : List TxOp → State → List Tx
  | [], _ => []
  | op :: ops, s => (op.tx s).toList ++ txTrace ops (op.apply s)

/-- The registers of a transport command that has `n` transactions answered OK: it has written all that stands before
its next transaction. -/
def regsAfter : Nat → List TxOp → State → State
  | _, [], s => s
  | 0, op :: ops, s => if op.sends then s else regsAfter 0 ops (op.apply s)
  | n + 1, op :: ops, s => if op.sends then regsAfter n ops s else regsAfter (n + 1) ops (op.apply s)

/-- What the next of the answers `as` makes of a command that has `rest` left to do, its transaction issued. -/
def takeAnswer (as : List Answer) (rest : List TxOp) (s : State) : State :=
  match as with
  | [] => { s with answers := [], wait := some rest }
  | .ok :: as => runTx rest { s with answers := as }
  | .err :: as => State.txError { s with answers := as }

theorem runTx_send_takeAnswer {op : TxOp} {t : Tx} (ops : List TxOp) (s : State) (h : op.tx s = some t) :
    runTx (op :: ops) s = takeAnswer s.answers ops (s.send t) := by
  rw [runTx_send ops s h]
  rcases hs : s.answers with _ | ⟨_ | _, as⟩
  · simp [takeAnswer, State.send, hs]
  · rfl
  · rfl

theorem TxOp.sends_of_tx {op : TxOp} {s : State} {t : Tx} (h : op.tx s = some t) : op.sends = true := by
  rw [← op.tx_isSome s, h]; rfl

theorem TxOp.apply_of_sends {op : TxOp} (h : op.sends = true) (s : State) : op.apply s = s := by
  cases op with
  | cmd b => rfl
  | page p => rfl
  | _ => cases h

/-- The trace and the ready answers matter neither to what an operation sends nor to what it writes. -/
theorem TxOp.tx_transport (op : TxOp) (s : State) (tr : List Tx) (as : List Answer) :
    op.tx { s with trace := tr, answers := as } = op.tx s := by
  cases op <;> rfl

theorem TxOp.apply_transport (op : TxOp) (s : State) (tr : List Tx) (as : List Answer) :
    op.apply { s with trace := tr, answers := as } = { op.apply s with trace := tr, answers := as } := by
  cases op <;> rfl

theorem txTrace_send {op : TxOp} {s : State} {t : Tx} (ops : List TxOp) (h : op.tx s = some t) :
    txTrace (op :: ops) s = t :: txTrace ops s := by
  simp [txTrace, h, TxOp.apply_of_sends (TxOp.sends_of_tx h)]

theorem txTrace_apply {op : TxOp} {s : State} (ops : List TxOp) (h : op.tx s = none) :
    txTrace (op :: ops) s = txTrace ops (op.apply s) := by
  simp [txTrace, h]

@[simp] theorem regsAfter_nil (n : Nat) (s : State) : regsAfter n [] s = s := by
  cases n <;> rfl

theorem regsAfter_apply {op : TxOp} (n : Nat) (ops : List TxOp) (s : State) (h : op.sends = false) :
    regsAfter n (op :: ops) s = regsAfter n ops (op.apply s) := by
  cases n <;> simp [regsAfter, h]

theorem regsAfter_send {op : TxOp} (n : Nat) (ops : List TxOp) (s : State) (h : op.sends = true) :
    regsAfter (n + 1) (op :: ops) s = regsAfter n ops s := by
  simp [regsAfter, h]

/-- With `n` transactions answered OK and a further one to send, the command issues it, and the next answer decides. -/
theorem runTx_answered (ops : List TxOp) (s : State) (tr : List Tx) (n : Nat) (as : List Answer)
    (hn : n < (txTrace ops s).length) :
    runTx ops { s with trace := tr, answers := List.replicate n .ok ++ as } =
      takeAnswer as (afterSends (n + 1) ops) { regsAfter n ops s with trace := tr ++ (txTrace ops s).take (n + 1) } := by
  induction ops generalizing s tr n with
  | nil => simp [txTrace] at hn
  | cons op ops ih =>
    cases h : op.tx s with
    | none =>
      have hs := TxOp.sends_eq_false h
      rw [txTrace_apply ops h] at hn ⊢
      rw [runTx_apply ops _ ((op.tx_transport ..).trans h), op.apply_transport, ih _ _ _ hn,
        regsAfter_apply _ _ _ hs, afterSends_apply _ _ hs]
    | some t =>
      have hs := TxOp.sends_of_tx h
      rw [txTrace_send ops h] at hn ⊢
      rw [runTx_send_takeAnswer ops _ ((op.tx_transport ..).trans h), afterSends_send _ _ hs]
      cases n with
      | zero =>
        rw [afterSends_zero, regsAfter, if_pos hs]
        rcases as with _ | ⟨_ | _, as⟩ <;> rfl
      | succ n =>
        rw [regsAfter_send _ _ _ hs, List.take_succ_cons, ← List.singleton_append, ← List.append_assoc]
        exact ih s (tr ++ [t]) n (Nat.lt_of_succ_lt_succ hn)

/-- With every transaction answered OK the command completes. -/
theorem runTx_allAnswered (ops : List TxOp) (s : State) (tr : List Tx) (as : List Answer) :
    runTx ops { s with trace := tr, answers := List.replicate (txTrace ops s).length .ok ++ as } =
      State.complete .ok 0x00#8
        { regsAfter (txTrace ops s).length ops s with trace := tr ++ txTrace ops s, answers := as } := by
  induction ops generalizing s tr with
  | nil => simp [txTrace, runTx]
  | cons op ops ih =>
    cases h : op.tx s with
    | none =>
      rw [runTx_apply ops _ ((op.tx_transport ..).trans h), op.apply_transport, txTrace_apply ops h, ih,
        regsAfter_apply _ _ _ (TxOp.sends_eq_false h)]
    | some t =>
      rw [runTx_send_takeAnswer ops _ ((op.tx_transport ..).trans h), txTrace_send ops h, List.length_cons,
        regsAfter_send _ _ _ (TxOp.sends_of_tx h), ← List.singleton_append, ← List.append_assoc]
      exact ih s (tr ++ [t])

section
variable {ops : List TxOp} {s : State} {n : Nat} {as : List Answer}

theorem runTx_completes (ha : s.answers = List.replicate (txTrace ops s).length .ok ++ as) :
    runTx ops s = State.complete .ok 0x00#8
      { regsAfter (txTrace ops s).length ops s with trace := s.trace ++ txTrace ops s, answers := as } := by
  rw [← runTx_allAnswered, ← ha]

theorem runTx_fails (hn : n < (txTrace ops s).length) (ha : s.answers = List.replicate n .ok ++ .err :: as) :
    runTx ops s = State.txError
      { regsAfter n ops s with trace := s.trace ++ (txTrace ops s).take (n + 1), answers := as } := by
  have h := runTx_answered ops s s.trace n (.err :: as) hn
  rwa [← ha] at h

theorem runTx_waits (hn : n < (txTrace ops s).length) (ha : s.answers = List.replicate n .ok) :
    runTx ops s =
      { regsAfter n ops s with
        trace := s.trace ++ (txTrace ops s).take (n + 1), answers := [], wait := some (afterSends (n + 1) ops) } := by
  have h := runTx_answered ops s s.trace n [] hn
  rwa [List.append_nil, ← ha] at h

end

/-! ## Operations that all send -/

/-- Operations that all send write no register, and are issued in order. -/
theorem txTrace_sends {ops : List TxOp} (hops : ∀ op ∈ ops, op.sends = true) (rest : List TxOp) (s : State) :
    txTrace (ops ++ rest) s = ops.filterMap (·.tx s) ++ txTrace rest s := by
  induction ops with
  | nil => rfl
  | cons op ops ih =>
    obtain ⟨hop, hops⟩ := List.forall_mem_cons.1 hops
    obtain ⟨t, ht⟩ := Option.isSome_iff_exists.1 ((op.tx_isSome s).trans hop)
    rw [List.cons_append, txTrace_send _ ht, ih hops,
      List.filterMap_cons_some (f := fun op : TxOp => op.tx s) ht, List.cons_append]

theorem regsAfter_sends {ops : List TxOp} (hops : ∀ op ∈ ops, op.sends = true) (n : Nat) (rest : List TxOp) (s : State) :
    regsAfter n (ops ++ rest) s = if n < ops.length then s else regsAfter (n - ops.length) rest s := by
  induction ops generalizing n with
  | nil => rfl
  | cons op ops ih =>
    obtain ⟨hop, hops⟩ := List.forall_mem_cons.1 hops
    cases n with
    | zero => simp [regsAfter, hop]
    | succ n => simp [regsAfter_send _ _ _ hop, ih hops]

theorem afterSends_sends {ops : List TxOp} (hops : ∀ op ∈ ops, op.sends = true) (n : Nat) : afterSends n ops = ops.drop n := by
  induction ops generalizing n with
  | nil => simp
  | cons op ops ih =>
    obtain ⟨hop, hops⟩ := List.forall_mem_cons.1 hops
    cases n with
    | zero => simp
    | succ n => rw [afterSends_send _ _ hop, ih hops, List.drop_succ_cons]

theorem cmds_send (bs : List Byte) : ∀ op ∈ bs.map TxOp.cmd, op.sends = true :=
  List.forall_mem_map.2 fun _ _ => rfl

theorem cmds_filterMap_tx (bs : List Byte) (s : State) : (bs.map TxOp.cmd).filterMap (·.tx s) = bs.map .cmd := by
  rw [List.filterMap_map]
  exact congrFun List.filterMap_eq_map _

/-- Command bytes, and then an operation that sends nothing. -/
theorem txTrace_cmds_apply {op : TxOp} (bs : List Byte) (rest : List TxOp) {s : State} (h : op.tx s = none) :
    txTrace (bs.map .cmd ++ op :: rest) s = bs.map .cmd ++ txTrace rest (op.apply s) := by
  rw [txTrace_sends (cmds_send bs), cmds_filterMap_tx, txTrace_apply rest h]

theorem regsAfter_cmds_apply {op : TxOp} (n : Nat) (bs : List Byte) (rest : List TxOp) (s : State) (h : op.sends = false) :
    regsAfter n (bs.map .cmd ++ op :: rest) s =
      if n < bs.length then s else regsAfter (n - bs.length) rest (op.apply s) := by
  rw [regsAfter_sends (cmds_send bs), List.length_map, regsAfter_apply _ _ _ h]

theorem flushOps_send (cfg : Config) : ∀ op ∈ flushOps cfg, op.sends = true := by
  intro op hop
  simp only [flushOps, List.mem_flatMap, List.mem_cons, List.not_mem_nil, or_false] at hop
  obtain ⟨p, -, rfl | rfl | rfl | rfl⟩ := hop <;> rfl

theorem txTrace_flushOps {cfg : Config} {s : State} (rest : List TxOp) (hcfg : s.cfg = cfg) :
    txTrace (flushOps cfg ++ rest) s = flushTrace cfg s.fb ++ txTrace rest s := by
  subst hcfg
  rw [txTrace_sends (flushOps_send _), flushOps, List.filterMap_flatMap]
  rfl

/-! ## The trace of a flush (R232) -/

theorem flushTrace_length (cfg : Config) (fb : List Byte) : (flushTrace cfg fb).length = 4 * cfg.pages := by
  simp [flushTrace, List.length_flatMap, Nat.mul_comm]

theorem flushOps_length (cfg : Config) : (flushOps cfg).length = 4 * cfg.pages := by
  simp [flushOps, List.length_flatMap, Nat.mul_comm]

/-- The first pages of a framebuffer, one after another, are its first bytes (20_memory.md R51). -/
theorem flatMap_pageBytes (cfg : Config) (fb : List Byte) (p : Nat) :
    (List.range p).flatMap (pageBytes cfg fb) = fb.take (p * cfg.width) := by
  induction p with
  | zero => simp
  | succ p ih => rw [List.range_succ, List.flatMap_append, ih, List.flatMap_singleton, pageBytes, ← List.take_add, Nat.succ_mul]

theorem flushTrace_payload {cfg : Config} {fb : List Byte} (h : fb.length = cfg.bufSize) :
    ((flushTrace cfg fb).map Tx.payload).flatten = fb := by
  calc ((flushTrace cfg fb).map Tx.payload).flatten
    _ = (List.range cfg.pages).flatMap (pageBytes cfg fb) := by
        rw [← List.flatMap_def, flushTrace, List.flatMap_assoc]
        simp [Tx.payload]
    _ = fb := by rw [flatMap_pageBytes]; exact List.take_of_length_le h.le

/-! ## Commands that send in a `Ready` session -/

/-- FLUSH, SETCONTRAST and SETDISP write no register before their last answer. -/
theorem SendsOps.regsAfter_eq {cfg : Config} {i : Instr} {ops : List TxOp} (ho : SendsOps cfg i ops) {n : Nat} {s : State}
    (hn : n < (txTrace ops s).length) : regsAfter n ops s = s := by
  cases ho with
  | flush => simpa using regsAfter_sends (flushOps_send cfg) n [] s
  | setcontrast v =>
    obtain rfl | rfl : n = 0 ∨ n = 1 := by simp [txTrace, TxOp.tx] at hn; omega
    · rfl
    · rfl
  | setdisp sw =>
    obtain rfl : n = 0 := by simpa [txTrace, TxOp.tx] using hn
    rfl

section
variable {i : Instr} {ops : List TxOp} {s : State} (ho : SendsOps s.cfg i ops) (hw : i.wf = true) (hs : s.session = .ready)
include ho hw hs

theorem SendsOps.exec_completes {rest : List Answer}
    (ha : s.answers = List.replicate (txTrace ops s.begin).length .ok ++ rest) :
    exec i s = .next (State.complete .ok 0x00#8
      { regsAfter (txTrace ops s.begin).length ops s.begin with
        trace := s.trace ++ txTrace ops s.begin, answers := rest }) :=
  (ho.exec_eq_runTx hw hs).trans (congrArg _ (runTx_completes (s := s.begin) ha))

theorem SendsOps.exec_fails {n : Nat} {rest : List Answer} (hn : n < (txTrace ops s.begin).length)
    (ha : s.answers = List.replicate n .ok ++ .err :: rest) :
    exec i s = .next
      { s with
        trace := s.trace ++ (txTrace ops s.begin).take (n + 1), answers := rest,
        last := .transportError, result := 0x00#8, busy := false } := by
  rw [ho.exec_eq_runTx hw hs, runTx_fails hn ha, ho.regsAfter_eq hn]
  simp [State.txError, State.complete, State.begin, hs]

theorem SendsOps.exec_waits {n : Nat} (hn : n < (txTrace ops s.begin).length) (ha : s.answers = List.replicate n .ok) :
    exec i s = .next
      { s with
        trace := s.trace ++ (txTrace ops s.begin).take (n + 1), answers := [], busy := true,
        wait := some (afterSends (n + 1) ops) } := by
  rw [ho.exec_eq_runTx hw hs, runTx_waits hn ha, ho.regsAfter_eq hn]
  rfl

end

/-! ## SETCONTRAST and SETDISP (R235, R237) -/

theorem boolOf_eq (sw : Byte) : boolOf sw = (sw == 1) := rfl

theorem dispCmd_boolOf (cfg : Config) (sw : Byte) :
    dispCmd cfg (boolOf sw) = if sw = 1 then cfg.dispOnCmd else cfg.dispOffCmd := by
  simp [dispCmd, boolOf]

/-- Settles O58: each list of answers is some OKs, as many as there are transactions or followed by an ERR or by nothing. -/
theorem configurationCommandsFollowTheirAnswers : Obligations.ConfigurationCommandsFollowTheirAnswers := by
  refine ⟨fun s v rest hs => ?contrast, fun s sw rest hs hw => ?disp⟩
  case contrast =>
    have ho : SendsOps s.cfg (.setcontrast v) _ := .setcontrast v
    have htwo : (txTrace [.cmd s.cfg.contrastCmd, .cmd v, .setContrast v] s.begin).length = 2 := rfl
    refine ⟨fun ha => ?allOk, fun ha => ?firstErr, fun ha => ?secondErr, fun ha => ?noAnswer, fun ha => ?oneAnswer⟩
    case allOk => exact ho.exec_completes rfl hs ha
    case firstErr => exact ho.exec_fails (n := 0) rfl hs (by omega) ha
    case secondErr => exact ho.exec_fails (n := 1) rfl hs (by omega) ha
    case noAnswer => rw [ho.exec_waits (n := 0) rfl hs (by omega) ha, ← ha]; rfl
    case oneAnswer => exact ho.exec_waits (n := 1) rfl hs (by omega) ha
  case disp =>
    rw [← dispCmd_boolOf, ← boolOf_eq]
    have ho : SendsOps s.cfg (.setdisp sw) _ := .setdisp sw
    have hone : (txTrace [.cmd (dispCmd s.cfg (boolOf sw)), .setDispon (boolOf sw)] s.begin).length = 1 := rfl
    refine ⟨fun ha => ?allOk, fun ha => ?firstErr, fun ha => ?noAnswer⟩
    case allOk => exact ho.exec_completes hw hs ha
    case firstErr => exact ho.exec_fails (n := 0) hw hs (by omega) ha
    case noAnswer => rw [ho.exec_waits (n := 0) hw hs (by omega) ha, ← ha]; rfl

/-! ## FLUSH (R231) -/

/-- Settles O55: FLUSH is a run of `Flush`, which writes no register. -/
theorem flushFollowsItsAnswers : Obligations.FlushFollowsItsAnswers := by
  have htrace (s : State) : txTrace (flushOps s.cfg) s.begin = flushTrace s.cfg s.fb := by
    simpa [txTrace] using txTrace_flushOps (s := s.begin) [] rfl
  have hlength (s : State) : (txTrace (flushOps s.cfg) s.begin).length = 4 * s.cfg.pages := by rw [htrace, flushTrace_length]
  have ho (s : State) : SendsOps s.cfg .flush (flushOps s.cfg) := .flush
  refine ⟨fun s rest hs ha => ?allOk, fun cfg fb hl => ⟨flushTrace_length cfg fb, flushTrace_payload hl⟩,
    fun s n rest hs hn ha => ?firstErr, fun s n hs hn ha => ?noAnswer⟩
  case allOk =>
    rw [(ho s).exec_completes rfl hs.session (by rw [hlength, ha]), htrace]
    have hregs := regsAfter_sends (flushOps_send s.cfg) (flushTrace s.cfg s.fb).length [] s.begin
    rw [List.append_nil, regsAfter_nil, ite_self] at hregs
    rw [hregs]
    rfl
  case firstErr => rw [(ho s).exec_fails rfl hs.session (by rwa [hlength]) ha, htrace]
  case noAnswer =>
    rw [(ho s).exec_waits rfl hs.session (by rwa [hlength]) ha, htrace, afterSends_sends (flushOps_send s.cfg)]

/-! ## INIT (R221, R222) -/

/-- The bytes of `INIT_SEQ` up to its first register write, DISPON (R221). -/
def initBytesDisplayOff (cfg : Config) : List Byte := (cfg.initSeq.take 1).flatten

/-- The bytes of `INIT_SEQ` between its first and its second register write, CONTRAST (R221). -/
def initBytesContrast (cfg : Config) : List Byte := ((cfg.initSeq.take 7).drop 1).flatten

/-- The bytes of `INIT_SEQ` between its second and its last register write, DISPON (R221). -/
def initBytesDisplayOn (cfg : Config) : List Byte := (cfg.initSeq.drop 7).flatten

/-- The last byte of step 7, which becomes CONTRAST (R221). -/
def initContrast (cfg : Config) : Byte := (cfg.initSeq.getD 6 []).getLastD 0x00#8

theorem initSeq_take_seven (cfg : Config) : (cfg.initSeq.take 7).flatten = initBytesDisplayOff cfg ++ initBytesContrast cfg := by
  have h := List.take_append_drop 1 (cfg.initSeq.take 7)
  rw [List.take_take] at h
  rw [initBytesDisplayOff, initBytesContrast, ← List.flatten_append]
  exact congrArg List.flatten h.symm

theorem initSeq_flatten (cfg : Config) :
    cfg.initSeq.flatten = initBytesDisplayOff cfg ++ initBytesContrast cfg ++ initBytesDisplayOn cfg := by
  rw [← initSeq_take_seven, initBytesDisplayOn, ← List.flatten_append, List.take_append_drop]

theorem wf_initSeq {cfg : Config} (h : cfg.wf = true) : cfg.initSeq.length = 14 ∧ cfg.initSeq.getD 6 [] ≠ [] := by
  simp only [Config.wf, Bool.and_eq_true, decide_eq_true_eq, Bool.not_eq_true', List.isEmpty_eq_false_iff] at h
  obtain ⟨⟨⟨-, hlength⟩, -⟩, hcontrast⟩ := h
  exact ⟨hlength, hcontrast⟩

/-- INIT as runs of command bytes with the register writes between them. -/
theorem initOps_eq {cfg : Config} (h : cfg.wf = true) :
    initOps cfg = (initBytesDisplayOff cfg).map .cmd ++ .setDispon false :: ((initBytesContrast cfg).map .cmd ++
      .setContrast (initContrast cfg) :: ((initBytesDisplayOn cfg).map .cmd ++
      .setDispon true :: .clearFb :: (flushOps cfg ++ [.ready]))) := by
  obtain ⟨hlength, hcontrast⟩ := wf_initSeq h
  unfold initOps initSeqOps initBytesDisplayOff initBytesContrast initBytesDisplayOn initContrast
  generalize cfg.initSeq = steps at hlength hcontrast
  match steps, hlength with
  | [s1, s2, s3, s4, s5, s6, s7, s8, s9, s10, s11, s12, s13, s14], _ =>
    obtain ⟨v, hv⟩ : ∃ v, s7.getLast? = some v := ⟨_, List.getLast?_eq_some_getLast hcontrast⟩
    simp [initEffect, List.getLastD_eq_getLast?, hv]

section
variable {cfg : Config} {s : State} (hc : cfg.wf = true) (hcfg : s.cfg = cfg)
include hc hcfg

theorem txTrace_initOps : txTrace (initOps cfg) s = initTrace cfg := by
  subst hcfg
  rw [initOps_eq hc, txTrace_cmds_apply _ _ rfl, txTrace_cmds_apply _ _ rfl, txTrace_cmds_apply _ _ rfl,
    txTrace_apply _ rfl, txTrace_flushOps (cfg := s.cfg), initTrace, initSeq_flatten]
  · simp [txTrace, TxOp.tx, TxOp.apply, blankFb]
  · rfl

/-- The registers of an INIT by where it stands: each run of command bytes, then the flush, then its end. -/
theorem regsAfter_initOps_eq (n : Nat) :
    regsAfter n (initOps cfg) s =
      if n < (initBytesDisplayOff cfg).length then s
      else if n - (initBytesDisplayOff cfg).length < (initBytesContrast cfg).length then { s with dispon := false }
      else if n - (initBytesDisplayOff cfg).length - (initBytesContrast cfg).length < (initBytesDisplayOn cfg).length then
        { s with dispon := false, contrast := initContrast cfg }
      else if n - (initBytesDisplayOff cfg).length - (initBytesContrast cfg).length - (initBytesDisplayOn cfg).length <
          4 * cfg.pages then
        { s with dispon := true, contrast := initContrast cfg, fb := blankFb cfg }
      else
        { s with
          dispon := true, contrast := initContrast cfg, fb := blankFb cfg, curx := 0, cury := 0, session := .ready } := by
  subst hcfg
  rw [initOps_eq hc, regsAfter_cmds_apply _ _ _ _ rfl, regsAfter_cmds_apply _ _ _ _ rfl,
    regsAfter_cmds_apply _ _ _ _ rfl, regsAfter_apply _ _ _ rfl, regsAfter_sends (flushOps_send _), flushOps_length,
    regsAfter_apply _ _ _ rfl, regsAfter_nil]
  rfl

/-- While INIT has a transaction left to send, each write that stands before it is done. -/
theorem regsAfter_initOps {n : Nat} (hn : n < cfg.initSeq.flatten.length + 4 * cfg.pages) :
    regsAfter n (initOps cfg) s =
      { s with
        fb := if cfg.initSeq.flatten.length ≤ n then blankFb cfg else s.fb
        dispon := if cfg.initSeq.flatten.length ≤ n then true else
          if (cfg.initSeq.take 1).flatten.length ≤ n then false else s.dispon
        contrast := if (cfg.initSeq.take 7).flatten.length ≤ n then initContrast cfg else s.contrast } := by
  rw [regsAfter_initOps_eq hc hcfg]
  simp only [initSeq_flatten, initSeq_take_seven, ← initBytesDisplayOff.eq_def, List.length_append] at hn ⊢
  generalize (initBytesDisplayOff cfg).length = a, (initBytesContrast cfg).length = b,
    (initBytesDisplayOn cfg).length = c at hn ⊢
  have hposition : n < a ∨ (a ≤ n ∧ n < a + b) ∨ (a + b ≤ n ∧ n < a + b + c) ∨ a + b + c ≤ n := by omega
  obtain h | ⟨h, h'⟩ | ⟨h, h'⟩ | h := hposition <;> simp (disch := omega) only [if_pos, if_neg]

/-- An INIT whose every transaction is answered has done all its writes (R222 step 4). -/
theorem regsAfter_initOps_all :
    regsAfter (cfg.initSeq.flatten.length + 4 * cfg.pages) (initOps cfg) s =
      { s with
        dispon := true, contrast := initContrast cfg, fb := blankFb cfg, curx := 0, cury := 0, session := .ready } := by
  rw [regsAfter_initOps_eq hc hcfg]
  simp (disch := omega) only [initSeq_flatten, List.length_append, if_neg]

end

theorem initTrace_length (cfg : Config) : (initTrace cfg).length = cfg.initSeq.flatten.length + 4 * cfg.pages := by
  rw [initTrace, List.length_append, List.length_map, flushTrace_length]

/-- `STATE <- Initializing`, with which INIT starts (R222 step 1). -/
def State.beginInit (s : State) : State := { s.begin with session := .initializing }

theorem exec_init (s : State) : exec .init s = .next (runTx (initOps s.cfg) s.beginInit) := rfl

theorem txTrace_beginInit {s : State} (hc : s.cfg.wf = true) : txTrace (initOps s.cfg) s.beginInit = initTrace s.cfg :=
  txTrace_initOps hc rfl

/-- The register writes that stand before a transaction of INIT, as R222 and R223 say them. -/
theorem InitReached.of_regs {n : Nat} {s t : State} (hc : s.cfg.wf = true)
    (hfb : t.fb = if s.cfg.initSeq.flatten.length ≤ n then blankFb s.cfg else s.fb)
    (hdispon : t.dispon = if s.cfg.initSeq.flatten.length ≤ n then true else
      if (s.cfg.initSeq.take 1).flatten.length ≤ n then false else s.dispon)
    (hcontrast : t.contrast = if (s.cfg.initSeq.take 7).flatten.length ≤ n then initContrast s.cfg else s.contrast) :
    InitReached n s t := by
  have hall : stepsDone s.cfg 14 n ↔ s.cfg.initSeq.flatten.length ≤ n := by
    rw [stepsDone, List.take_of_length_le (wf_initSeq hc).1.le]
  have hfirst : s.cfg.initSeq.flatten.length ≤ n → stepsDone s.cfg 1 n :=
    ((List.take_sublist 1 s.cfg.initSeq).flatten.length_le).trans
  constructor
  case fbKept => exact fun h => hfb.trans (if_neg h.not_ge)
  case fbBlank => exact fun h => hfb.trans (if_pos h)
  case displayOn => exact fun h => hdispon.trans (if_pos (hall.1 h))
  case displayOff => exact fun h h' => hdispon.trans ((if_neg (mt hall.2 h')).trans (if_pos h))
  case displayKept => exact fun h => hdispon.trans ((if_neg (mt hfirst h)).trans (if_neg h))
  case contrastSet => exact fun h => hcontrast.trans (if_pos h)
  case contrastKept => exact fun h => hcontrast.trans (if_neg h)

/-- Settles O56: INIT completes after its last register writes, or waits with those before the transaction in flight. -/
theorem initMakesTheSessionReady : Obligations.InitMakesTheSessionReady := by
  refine ⟨fun s rest hc ha => ?allOk, fun s n hc hn ha => ?noAnswer⟩
  case allOk =>
    rw [← initTrace_length, ← txTrace_beginInit hc] at ha
    rw [exec_init, runTx_completes ha, txTrace_beginInit hc, initTrace_length, regsAfter_initOps_all (s := s.beginInit) hc rfl]
    rfl
  case noAnswer =>
    have hleft : n < (txTrace (initOps s.cfg) s.beginInit).length := by rwa [txTrace_beginInit hc, initTrace_length]
    rw [exec_init, runTx_waits hleft ha, txTrace_beginInit hc, regsAfter_initOps (s := s.beginInit) hc rfl hn]
    exact ⟨_, rfl, rfl, .of_regs hc rfl rfl rfl⟩

/-- Settles O57: an ERR ends INIT with the register writes before the transaction in flight. -/
theorem initFailsBackToUninitialized : Obligations.InitFailsBackToUninitialized := by
  intro s n rest hc hn ha
  have hleft : n < (txTrace (initOps s.cfg) s.beginInit).length := by rwa [txTrace_beginInit hc, initTrace_length]
  rw [exec_init, runTx_fails hleft ha, txTrace_beginInit hc, regsAfter_initOps (s := s.beginInit) hc rfl hn]
  exact ⟨_, rfl, rfl, .of_regs hc rfl rfl rfl⟩

end Sys2Proof.Machine
end

section
/-! PROOFS. How a command can go wrong (60_exceptions.md): illegal operands (R256), a command before `Ready` (R257), and
the block that a model fault has stopped (R258). -/

namespace Sys2Proof.Machine

/-! ## Commands that do not run -/

theorem exec_illegal {i : Instr} (hw : i.wf = false) (s : State) :
    exec i s = .next { s with last := .illegal, result := 0x00#8, busy := false } := by
  have hi : i ≠ .init := by rintro rfl; cases hw
  obtain ⟨body, hexec, -⟩ := exec_eq_execute i hi
  rw [hexec, hw, execute_illegal]

theorem exec_preInit {i : Instr} {s : State} (hi : i ≠ .init) (hw : i.wf = true) (hs : s.session ≠ .ready) :
    exec i s = .next { s with faultPreInit := true, faultInfo := some (.preInit (opcodeOf i)), busy := true } := by
  obtain ⟨body, hexec, -⟩ := exec_eq_execute i hi
  rw [hexec, execute_preInit hw hs]

/-- Settles O14: the legality test comes before the test of the session, and INIT has no operand. -/
theorem illegalOperandsCompleteIllegal : Obligations.IllegalOperandsCompleteIllegal :=
  fun _ s hw => exec_illegal hw s

/-- Settles O15: a legal command other than INIT runs its body in a `Ready` session only. -/
theorem commandBeforeReadyIsPreInitFault : Obligations.CommandBeforeReadyIsPreInitFault :=
  fun _ _ hi hw hs => exec_preInit hi hw hs

/-! ## A stopped block -/

/-- A faulted block is busy and waits for no answer. -/
theorem State.Inv.busy_and_wait_of_faulted {s : State} (h : s.Inv) (hf : s.faulted = true) : s.busy = true ∧ s.wait = none := by
  refine ⟨by rw [h.busyWhy, hf, Bool.or_true], Option.not_isSome_iff_eq_none.1 fun hw => ?_⟩
  exact absurd (hf.symm.trans (h.waitNotFaulted hw)) nofun

/-- A CMD byte written after a model fault is ignored (log entry 8). -/
theorem cmdWrite_faulted {s : State} (hb : s.busy = true) (hf : s.faulted = true) (b : Byte) : cmdWrite b s = .next s := by
  rw [cmdWrite, if_pos hb, if_pos hf]

/-- An answer with no transaction in flight is ignored (log entry 14). -/
theorem step_answer_ignored {s : State} {a : Answer} {ms : List Input} (hc : s.cfg.wf = true) (hw : s.wait = none)
    (hi : s.inputs = .answer a :: ms) : step s = .next { s with inputs := ms } := by
  rw [step_move hc hi]
  simp only [environmentMove, hw]

/-- The host's change of source memory changes nothing else, whatever the block does (log entry 13). -/
theorem step_source {s : State} {a : Word} {b : Option Byte} {ms : List Input} (hc : s.cfg.wf = true)
    (hi : s.inputs = .source a b :: ms) : step s = .next { s with inputs := ms, src := s.src.put a.toNat b } := by
  rw [step_move hc hi]
  rfl

/-- Settles O16: a stopped block is busy with nothing in flight, which decides each move. -/
theorem faultedBlockStaysStopped : Obligations.FaultedBlockStaysStopped := by
  intro s ms h hf
  obtain ⟨hbusy, hwait⟩ := h.busy_and_wait_of_faulted hf
  refine ⟨fun offset v hi => ?write, fun a hi => step_answer_ignored h.cfgLegal hwait hi,
    fun a b hi => step_source h.cfgLegal hi, step_idle h.cfgLegal⟩
  by_cases ho : offset = 0
  · subst ho
    rw [step_move h.cfgLegal hi]
    exact cmdWrite_faulted (s := { s with inputs := ms }) hbusy hf _
  · exact step_write_other h.cfgLegal hi ho

end Sys2Proof.Machine
end

section
/-! PROOFS. Why a command ends as it does (60_exceptions.md): each completion code has its cause (R250), and a `SrcFault`
comes from a command that reads source memory, at an address the port does not admit (R257). -/

namespace Sys2Proof.Machine

/-! ## The source port (20_memory.md R55, R56, R65) -/

theorem not_readable_of_srcRead_error {m : Memory} {a e : Nat} (h : srcRead m a = .error e) : ¬ Readable m a := by
  rintro ⟨b, hb⟩
  cases h.symm.trans hb

theorem srcRead_eq_error_of_le {m : Memory} {a : Nat} (h : 2 ^ 32 ≤ a) : srcRead m a = .error a :=
  if_neg (Nat.not_lt.2 h)

theorem srcRead_put_some_same (m : Memory) (a : Word) (b : Byte) : srcRead (m.put a.toNat (some b)) a.toNat = .ok b :=
  srcRead_eq_ok.2 ⟨a.isLt, Memory.lookup_insert_same ..⟩

theorem srcRead_put_none_same (m : Memory) (a : Nat) : srcRead (m.put a none) a = .error a := by
  refine srcRead_of_not_readable fun ⟨b, hb⟩ => ?_
  have hlookup : (m.erase a).lookup a = some b := (srcRead_eq_ok.1 hb).2
  rw [Memory.lookup_erase, if_pos rfl] at hlookup
  cases hlookup

theorem Memory.lookup_put_other (m : Memory) {a a' : Nat} (v : Option Byte) (h : a' ≠ a) :
    (m.put a v).lookup a' = m.lookup a' := by
  cases v with
  | some b => exact Memory.lookup_insert_other m b h
  | none => exact (Memory.lookup_erase m a a').trans (if_neg h)

theorem srcRead_put_other (m : Memory) {a a' : Nat} (v : Option Byte) (h : a' ≠ a) :
    srcRead (m.put a v) a' = srcRead m a' := by
  rw [srcRead, srcRead, Memory.lookup_put_other m v h]

/-- Bytes that are all readable are assembled little-endian. -/
theorem memRead_ok {m : Memory} {a n : Nat} {f : Nat → Byte} (h : ∀ i < n, srcRead m (a + i) = .ok (f i)) :
    memRead m a n = .ok ((List.range n).map fun i => (f i).toNat * 2 ^ (8 * i)).sum := by
  induction n generalizing a f with
  | zero => rfl
  | succ n ih =>
    have hfirst : srcRead m a = .ok (f 0) := h 0 n.succ_pos
    have hrest := ih (a := a + 1) (f := fun i => f (i + 1)) fun i hi => by
      rw [Nat.add_assoc, Nat.add_comm 1]
      exact h (i + 1) (Nat.succ_lt_succ hi)
    have hshift (i : Nat) : (f (i + 1)).toNat * 2 ^ (8 * (i + 1)) = 256 * ((f (i + 1)).toNat * 2 ^ (8 * i)) := by
      rw [Nat.mul_succ, Nat.pow_add]
      ring
    simp only [memRead, hfirst, hrest, List.range_succ_eq_map, List.map_cons, List.map_map, List.sum_cons,
      Function.comp_def, Nat.succ_eq_add_one, hshift, List.sum_map_mul_left, Nat.mul_zero, Nat.pow_zero, Nat.mul_one]

/-- Of the bytes read together the first that is not readable decides the fault. -/
theorem memRead_error {m : Memory} {a n k : Nat} (h : FirstUnreadable m a n k) : memRead m a n = .error (a + k) := by
  obtain ⟨hk, hread, hbad⟩ := h
  induction n generalizing a k with
  | zero => cases hk
  | succ n ih =>
    cases k with
    | zero =>
      have hfirst : srcRead m a = .error a := srcRead_of_not_readable hbad
      simp only [memRead, hfirst, Nat.add_zero]
    | succ k =>
      obtain ⟨b, hb⟩ : Readable m a := hread 0 k.succ_pos
      have hshift (j : Nat) : a + 1 + j = a + (j + 1) := by rw [Nat.add_assoc, Nat.add_comm 1]
      have hrest := ih (a := a + 1) (k := k) (Nat.lt_of_succ_lt_succ hk)
        (fun j hj => hshift j ▸ hread (j + 1) (Nat.succ_lt_succ hj)) (hshift k ▸ hbad)
      simp only [memRead, hb, hrest, hshift]

/-! ## Faults of the parts that read source memory -/

/-- A part that reads source memory `m` faults only at an address that is not readable. -/
def Fetched.FaultsUnreadable {α : Type} (m : Memory) (r : Fetched α) : Prop := ∀ v a, r = .fault v a → ¬ Readable m a

theorem Fetched.FaultsUnreadable.done {α : Type} (m : Memory) (v : α) : (Fetched.done v).FaultsUnreadable m :=
  fun _ _ h => by cases h

theorem Fetched.FaultsUnreadable.readByte {α : Type} {m : Memory} (a : Nat) (v : α) {k : Byte → Fetched α}
    (hk : ∀ b, (k b).FaultsUnreadable m) : (readByte m a v k).FaultsUnreadable m := by
  by_cases ha : Readable m a
  · obtain ⟨b, hb⟩ := ha
    rw [readByte_ok hb]
    exact hk b
  · rw [readByte_error (srcRead_of_not_readable ha)]
    intro v' a' h
    cases h
    exact ha

theorem Fetched.FaultsUnreadable.forEach {ι α : Type} {m : Memory} {f : ι → α → Fetched α}
    (hf : ∀ i v, (f i v).FaultsUnreadable m) (is : List ι) (v : α) : (forEach f is v).FaultsUnreadable m :=
  forEach_fault_address hf is v

theorem loadBytes_faultsUnreadable {src : Memory} {addr len : Nat} {fb : List Byte} :
    (loadBytes src addr len fb).FaultsUnreadable src :=
  .forEach (fun _ _ => .readByte _ _ fun _ => .done _ _) _ _

theorem polySegments_faultsUnreadable {cfg : Config} {c : Color} {src : Memory} {addr count : Nat} {fb : List Byte} :
    (polySegments cfg c src addr count fb).FaultsUnreadable src :=
  .forEach (fun _ _ => .readByte _ _ fun _ => .readByte _ _ fun _ => .readByte _ _ fun _ => .readByte _ _ fun _ => .done _ _) _ _

theorem blit_faultsUnreadable {cfg : Config} {c : Color} {src : Memory} {x y addr w h : Nat} {fb : List Byte} :
    (blit cfg c src x y addr w h fb).FaultsUnreadable src :=
  .forEach (fun _ _ => .forEach (fun _ _ => .readByte _ _ fun _ => .done _ _) _ _) _ _

/-! ## How a body ends, and why -/

/-- The commands that read source memory (20_memory.md R50). -/
inductive ReadsSource : Instr → Prop
  | load (addr : Word) (len : Half) : ReadsSource (.load addr len)
  | polyline (addr : Word) (count : Half) (c : Byte) : ReadsSource (.polyline addr count c)
  | wrchar (ch c : Byte) : ReadsSource (.wrchar ch c)
  | wrstr (addr : Word) (c : Byte) : ReadsSource (.wrstr addr c)
  | bitmap (x y : Byte) (addr : Word) (w h c : Byte) : ReadsSource (.bitmap x y addr w h c)

/-- Why command `i`, started in `s` and completed in `t`, has its completion code (60_exceptions.md R250). -/
inductive StatusCause (s t : State) : Instr → Status → Prop
  | ok (i : Instr) : StatusCause s t i .ok
  | illegalOperands {i : Instr} (hw : i.wf = false) : StatusCause s t i .illegal
  | loadTooLong {addr : Word} {len : Half} (h : s.cfg.bufSize < len.toNat) : StatusCause s t (.load addr len) .sizeError
  | invrectOutOfRange {x1 y1 x2 y2 : Byte} (h : ¬ invRange s.cfg x1.toNat y1.toNat x2.toNat y2.toNat = true) :
      StatusCause s t (.invrect x1 y1 x2 y2) .rangeError
  | charRefused {ch c : Byte} {st : Status} (h : glyphRefusal s ch.toNat = some st) : StatusCause s t (.wrchar ch c) st
  | stringNoFont {addr : Word} {c : Byte} (h : s.fontValid = false) : StatusCause s t (.wrstr addr c) .illegal
  | stringRefused {addr : Word} {c : Byte} {st : Status} (hfont : t.fontValid = s.fontValid)
      (h : glyphRefusal t t.result.toNat = some st) : StatusCause s t (.wrstr addr c) st
  | answeredErr {i : Instr} (hi : UsesTransport i) (h : .err ∈ s.answers) : StatusCause s t i .transportError

/-- How command `i`, started in `s`, has ended in `t`: it completed with a code that has its cause, a `PreInitFault` or a
`SrcFault` stopped the block, or `t` is what its transactions left. -/
inductive EndsFor (i : Instr) (s t : State) : Prop
  | completes (hsrc : t.faultSrc = s.faultSrc) (hcause : StatusCause s t i t.last)
  | preInit (hsrc : t.faultSrc = s.faultSrc) (hb : t.busy = true)
  | srcFault (hi : ReadsSource i) (hw : i.wf = true) (hs : s.session = .ready) {a : Nat} (ha : ¬ Readable s.src a)
      (hinfo : t.faultInfo = some (.src a)) (hb : t.busy = true)
  | sends (hi : UsesTransport i) {ops : List TxOp} {u : State} (ht : t = runTx ops u)
      (hu : u.busy = true ∧ u.faultSrc = s.faultSrc ∧ u.answers = s.answers)

/-- A command ends as the tests of R72 or its body decide. -/
theorem EndsFor.of_execute {i : Instr} {op : Byte} {legal : Bool} {body : State → State} {s t : State}
    (h : execute op legal body s = .next t) (hl : legal = i.wf)
    (hbody : i.wf = true → s.session = .ready → EndsFor i s.begin (body s.begin)) : EndsFor i s.begin t := by
  subst hl
  obtain ⟨hw, rfl⟩ | ⟨-, -, rfl⟩ | ⟨hw, hs, rfl⟩ := execute_cases h
  · exact .completes rfl (.illegalOperands hw)
  · exact .preInit rfl rfl
  · exact hbody hw hs

theorem EndsFor.of_endFetch {i : Instr} {s : State} {r : Fetched (List Byte)} (hi : ReadsSource i) (hw : i.wf = true)
    (hs : s.session = .ready) (hr : r.FaultsUnreadable s.src) : EndsFor i s (s.endFetch r) := by
  cases r with
  | done fb => exact .completes rfl (.ok i)
  | fault fb a => exact .srcFault hi hw hs (hr fb a rfl) rfl rfl

/-- A string write that has reached the framebuffer `fb` and the cursor `x` goes on to an end of the command
(44_text_bitmap.md R204). -/
theorem EndsFor.of_writeString {addr : Word} {cc : Byte} {s : State} (hw : (Instr.wrstr addr cc).wf = true)
    (hs : s.session = .ready) (c : Color) {n a : Nat} (ha : a + n = 2 ^ 32) (fb : List Byte) (x : Half) :
    EndsFor (.wrstr addr cc) s (writeString c n a { s with fb := fb, curx := x }) := by
  have fault (u : State) {e : Nat} (he : ¬ Readable s.src e) : EndsFor (.wrstr addr cc) s (u.raise (.src e)) :=
    .srcFault (.wrstr addr cc) hw hs he rfl rfl
  induction n generalizing a fb x with
  | zero => exact fault _ (not_readable_of_srcRead_error (srcRead_eq_error_of_le ha.ge))
  | succ n ih =>
    by_cases hread : Readable s.src a
    · obtain ⟨ch, hread⟩ := hread
      by_cases hch : ch = 0x00#8
      · subst hch
        rw [writeString_terminator (s := { s with fb := fb, curx := x }) c n hread]
        exact .completes rfl (.ok _)
      · obtain ⟨st, hst, hp⟩ | ⟨-, fb', adv, -, -, -, hp⟩ | ⟨-, fb', e, -, he, hp⟩ :=
          putGlyph_cases c ch.toNat { s with fb := fb, curx := x }
        · rw [writeString_refused (s := { s with fb := fb, curx := x }) n hread hch hp]
          exact .completes rfl (.stringRefused rfl hst)
        · rw [writeString_written (s := { s with fb := fb, curx := x }) n hread hch hp]
          exact ih (by omega) fb' _
        · rw [writeString_fault (s := { s with fb := fb, curx := x }) n hread hch hp]
          exact fault _ (not_readable_of_srcRead_error he)
    · rw [writeString_unreadable (s := { s with fb := fb, curx := x }) c n hread]
      exact fault _ hread

/-- Every way a command can end, with its cause. -/
theorem exec_endsFor {i : Instr} {s t : State} (h : exec i s = .next t) : EndsFor i s.begin t := by
  have col := colLegal_eq_wfCol
  cases i <;> simp only [exec] at h
  case init =>
    cases h
    exact .sends .init rfl ⟨rfl, rfl, rfl⟩
  case fill c => exact .of_execute h (col c) fun _ _ => .completes rfl (.ok _)
  case load addr len =>
    refine .of_execute h rfl fun hw hs => ?_
    split
    · exact .completes rfl (.loadTooLong (by assumption))
    · exact .of_endFetch (.load addr len) hw hs loadBytes_faultsUnreadable
  case flush => exact .of_execute h rfl fun _ _ => .sends .flush rfl ⟨rfl, rfl, rfl⟩
  case setcontrast v => exact .of_execute h rfl fun _ _ => .sends (.setcontrast v) rfl ⟨rfl, rfl, rfl⟩
  case setdisp sw => exact .of_execute h (boolLegal_eq_wfBool sw) fun _ _ => .sends (.setdisp sw) rfl ⟨rfl, rfl, rfl⟩
  case getdisp => exact .of_execute h rfl fun _ _ => .completes rfl (.ok _)
  case pixel x y c => exact .of_execute h (col c) fun _ _ => .completes rfl (.ok _)
  case line x1 y1 x2 y2 c => exact .of_execute h (col c) fun _ _ => .completes rfl (.ok _)
  case polyline addr count c =>
    refine .of_execute h (col c) fun hw hs => ?_
    split
    · exact .completes rfl (.ok _)
    · exact .of_endFetch (.polyline addr count c) hw hs polySegments_faultsUnreadable
  case rect x1 y1 x2 y2 c => exact .of_execute h (col c) fun _ _ => .completes rfl (.ok _)
  case fillrect x1 y1 x2 y2 c => exact .of_execute h (col c) fun _ _ => .completes rfl (.ok _)
  case invrect x1 y1 x2 y2 =>
    refine .of_execute h rfl fun _ _ => ?_
    split
    · exact .completes rfl (.ok _)
    · exact .completes rfl (.invrectOutOfRange (by assumption))
  case circle cx cy r c =>
    refine .of_execute h (col c) fun _ _ => ?_
    split
    · exact .completes rfl (.ok _)
    · exact .completes rfl (.ok _)
  case fillcircle cx cy r c =>
    refine .of_execute h (col c) fun _ _ => ?_
    split
    · exact .completes rfl (.ok _)
    · exact .completes rfl (.ok _)
  case arc cx cy r start sweep c => exact .of_execute h (col c) fun _ _ => .completes rfl (.ok _)
  case arcrl cx cy r start sweep c => exact .of_execute h (col c) fun _ _ => .completes rfl (.ok _)
  case filltri x0 y0 x1 y1 x2 y2 c => exact .of_execute h (col c) fun _ _ => .completes rfl (.ok _)
  case setfont w h' flags data cw => exact .of_execute h (fontLegal_eq_wfFont w h' flags) fun _ _ => .completes rfl (.ok _)
  case setcursor x y => exact .of_execute h rfl fun _ _ => .completes rfl (.ok _)
  case wrchar ch c =>
    refine .of_execute h (col c) fun hw hs => ?_
    obtain ⟨st, hst, hp⟩ | ⟨-, fb, adv, -, -, -, hp⟩ | ⟨-, fb, a, -, ha, hp⟩ := putGlyph_cases (colorOf c) ch.toNat s.begin
    · simpa only [hp] using .completes rfl (.charRefused hst)
    · simpa only [hp] using .completes rfl (.ok _)
    · simpa only [hp] using .srcFault (.wrchar ch c) hw hs (not_readable_of_srcRead_error ha) rfl rfl
  case wrstr addr c =>
    refine .of_execute h (col c) fun hw hs => ?_
    split
    · exact .completes rfl (.stringNoFont (by assumption))
    · exact .of_writeString (s := s.begin) hw hs _ (Nat.add_sub_of_le addr.isLt.le) s.fb s.curx
  case bitmap x y addr w h' c =>
    refine .of_execute h (col c) fun hw hs => ?_
    split
    · exact .completes rfl (.ok _)
    · exact .of_endFetch (.bitmap x y addr w h' c) hw hs blit_faultsUnreadable

/-! ## Where a `SrcFault` comes from (R257) -/

theorem exec_srcFault {i : Instr} {s t : State} (h : exec i s = .next t) (hs : s.faultSrc = false) (ht : t.faultSrc = true) :
    i.wf = true ∧ s.session = .ready ∧ ReadsSource i ∧ t.busy = true ∧ ∃ a, t.faultInfo = some (.src a) ∧ ¬ Readable s.src a := by
  have absurd_kept (hkept : t.faultSrc = s.faultSrc) : False := by cases hs.symm.trans (hkept.symm.trans ht)
  cases exec_endsFor h with
  | completes hsrc => exact (absurd_kept hsrc).elim
  | preInit hkept => exact (absurd_kept hkept).elim
  | @sends _ ops u ht hu =>
    obtain ⟨-, hsrc, -⟩ := hu
    obtain ⟨-, -, -, -, -, -, -, hkept, -⟩ := runTx_keeps ops u
    subst ht
    exact (absurd_kept (hkept.trans hsrc)).elim
  | srcFault hi hw hready ha hinfo hb => exact ⟨hw, hready, hi, hb, _, hinfo, ha⟩

/-- Settles O17: every read of a command goes through the port, and the host's change is a write of one address. -/
theorem srcFaultNamesAnUnadmittedAddress : Obligations.SrcFaultNamesAnUnadmittedAddress := by
  refine ⟨fun i s t h hs ht => ?raised, fun m a h => srcRead_eq_error_of_le h, fun s a v ms hc hm hi => ?changed,
    fun m a n f h => memRead_ok h, fun m a n k h => memRead_error h⟩
  case raised =>
    obtain ⟨hw, hready, hreads, hbusy, hinfo⟩ := exec_srcFault h hs ht
    refine ⟨hw, hready, hbusy, hinfo, ?_⟩
    cases hreads with
    | load addr len => exact .inl ⟨addr, len, rfl⟩
    | polyline addr count c => exact .inr (.inl ⟨addr, count, c, rfl⟩)
    | wrchar ch c => exact .inr (.inr (.inl ⟨ch, c, rfl⟩))
    | wrstr addr c => exact .inr (.inr (.inr (.inl ⟨addr, c, rfl⟩)))
    | bitmap x y addr w h' c => exact .inr (.inr (.inr (.inr ⟨x, y, addr, w, h', c, rfl⟩)))
  case changed =>
    refine ⟨_, step_source hc hi, Memory.put_wf a v hm, ?_, fun a' ha => srcRead_put_other s.src v ha⟩
    cases v with
    | some b => exact srcRead_put_some_same s.src a b
    | none => exact srcRead_put_none_same s.src a.toNat

/-! ## Where a completion code comes from (R250) -/

/-- A transport command that completes does so OK, or TRANSPORT_ERROR for an ERR among the answers (R255). -/
theorem runTx_completion_code (ops : List TxOp) {s : State} (hb : s.busy = true) (h : (runTx ops s).busy = false) :
    (runTx ops s).last = .ok ∨ (runTx ops s).last = .transportError ∧ .err ∈ s.answers := by
  induction ops generalizing s with
  | nil => exact .inl rfl
  | cons op ops ih =>
    cases htx : op.tx s with
    | none =>
      have hkept : (op.apply s).busy = s.busy ∧ (op.apply s).answers = s.answers := by cases op <;> exact ⟨rfl, rfl⟩
      rw [runTx_apply ops s htx] at h ⊢
      rw [← hkept.2]
      exact ih (hkept.1.trans hb) h
    | some t =>
      rw [runTx_send ops s htx] at h ⊢
      rcases ha : s.answers with _ | ⟨_ | _, as⟩ <;> simp only [ha] at h ⊢
      case nil => cases hb.symm.trans h
      case cons.ok => exact (ih (s := { s.send t with answers := as }) hb h).imp_right (And.imp_right (List.mem_cons_of_mem _))
      case cons.err => exact .inr ⟨rfl, List.mem_cons_self⟩

theorem exec_statusCause {i : Instr} {s t : State} (h : exec i s = .next t) (hb : t.busy = false) :
    StatusCause s.begin t i t.last := by
  cases exec_endsFor h with
  | completes _ hcause => exact hcause
  | preInit _ hbusy => cases hbusy.symm.trans hb
  | srcFault _ _ _ _ _ hbusy => cases hbusy.symm.trans hb
  | @sends hi ops u ht hu =>
    subst ht
    obtain ⟨hbusy, -, ha⟩ := hu
    obtain hl | ⟨hl, herr⟩ := runTx_completion_code ops hbusy hb
    · rw [hl]
      exact .ok i
    · rw [hl]
      exact .answeredErr hi (ha ▸ herr)

/-- Settles O24, by the cause of the code. -/
theorem statusCodesHaveTheListedCauses : Obligations.StatusCodesHaveTheListedCauses := by
  intro i s t h hb
  have hcause := exec_statusCause h hb
  generalize t.last = st at hcause ⊢
  cases hcause with
  | ok => exact ⟨nofun, nofun, nofun, nofun, nofun⟩
  | illegalOperands hw => exact ⟨nofun, nofun, nofun, nofun, fun _ => .inl hw⟩
  | loadTooLong hlen => exact ⟨fun _ => ⟨_, _, rfl, hlen⟩, nofun, nofun, nofun, nofun⟩
  | invrectOutOfRange hout =>
    refine ⟨nofun, fun _ => .inl ⟨_, _, _, _, rfl, ?_⟩, nofun, nofun, nofun⟩
    rw [invRange_iff, State.begin_cfg] at hout
    omega
  | charRefused hst =>
    obtain ⟨hfont, rfl⟩ | ⟨-, hch, rfl⟩ | ⟨-, hch, hch', hfit, rfl⟩ := glyphRefusal_eq_some_iff.1 hst
    · exact ⟨nofun, nofun, nofun, nofun, fun _ => .inr ⟨.inl ⟨_, _, rfl⟩, hfont⟩⟩
    · exact ⟨nofun, nofun, fun _ => .inl ⟨_, _, rfl, hch⟩, nofun, nofun⟩
    · exact ⟨nofun, fun _ => .inr (.inl ⟨_, _, rfl, hch, hch', hfit⟩), nofun, nofun, nofun⟩
  | stringNoFont hfont => exact ⟨nofun, nofun, nofun, nofun, fun _ => .inr ⟨.inr ⟨_, _, rfl⟩, hfont⟩⟩
  | stringRefused hkept hst =>
    obtain ⟨hfont, rfl⟩ | ⟨-, hch, rfl⟩ | ⟨-, hch, hch', hfit, rfl⟩ := glyphRefusal_eq_some_iff.1 hst
    · exact ⟨nofun, nofun, nofun, nofun, fun _ => .inr ⟨.inr ⟨_, _, rfl⟩, hkept.symm.trans hfont⟩⟩
    · exact ⟨nofun, nofun, fun _ => .inr ⟨_, _, rfl, hch⟩, nofun, nofun⟩
    · exact ⟨nofun, fun _ => .inr (.inr ⟨_, _, rfl, hch, hch', hfit⟩), nofun, nofun, nofun⟩
  | answeredErr hi herr =>
    refine ⟨nofun, nofun, nofun, fun _ => ⟨?_, herr⟩, nofun⟩
    cases hi with
    | init => exact .inl rfl
    | flush => exact .inr (.inl rfl)
    | setcontrast v => exact .inr (.inr (.inl ⟨v, rfl⟩))
    | setdisp sw => exact .inr (.inr (.inr ⟨sw, rfl⟩))

end Sys2Proof.Machine
end

section
/-! PROOFS. Reset (70_reset_and_hazards.md R280): from any state the host's reset gives the reset state, which holds the
listed values and has the invariant. And the end of every command (30_encoding.md R72, R289): each answers a next state. -/

namespace Sys2Proof.Machine

/-! ## Reset -/

/-- Every field of the STATUS word is 0 after reset. -/
theorem statusWord_resetWith (cfg : Config) (src : Memory) (as : List Answer) (ms : List Input) (n : Nat) :
    statusWord (State.resetWith cfg src as ms n) = 0x00000000#32 := by
  simp [statusWord, State.resetWith, Status.code, Session.code]

/-- The table of R280 holds of the reset state under any parameters and environment, and after any number of resets. -/
theorem resetWith_holdsResetValues (cfg : Config) (src : Memory) (as : List Answer) (ms : List Input) (n : Nat) :
    (State.resetWith cfg src as ms n).HoldsResetValues where
  session := rfl
  cursor := ⟨rfl, rfl⟩
  dispon := rfl
  contrast := rfl
  font := ⟨rfl, rfl, rfl, rfl, rfl, rfl⟩
  last := rfl
  result := rfl
  fault := ⟨rfl, rfl⟩
  busy := ⟨rfl, rfl⟩
  pktLen := rfl
  fbSize := State.reset_fb_length cfg src as ms n
  status := statusWord_resetWith cfg src as ms n
  trace := rfl

/-- The host's reset is taken whatever the block does (R264); what is not the block's stays (log entry 16). -/
theorem step_reset {s : State} {ms : List Input} (hc : s.cfg.wf = true) (hi : s.inputs = .reset :: ms) :
    step s = .next (State.resetWith s.cfg s.src s.answers ms (s.resets + 1)) := by
  rw [step_move hc hi]
  rfl

/-- Settles O13: a reset does not test whether the block executes, waits or has faulted. -/
theorem hostResetReturnsToTheResetState : Obligations.HostResetReturnsToTheResetState :=
  fun _ _ hc hi => step_reset hc hi

/-- Settles O12: power-on and a host reset both give a reset state, in which no transaction is in flight, so a late
answer is ignored. -/
theorem resetLeavesTheListedValues : Obligations.ResetLeavesTheListedValues := by
  refine ⟨resetWith_holdsResetValues .., fun s ms hc hi => ?_⟩
  have ht := resetWith_holdsResetValues s.cfg s.src s.answers ms (s.resets + 1)
  refine ⟨_, step_reset hc hi, ht, rfl, fun a ms' => ?_⟩
  obtain ⟨-, hwait⟩ := ht.busy
  exact step_answer_ignored (s := { State.resetWith s.cfg s.src s.answers ms (s.resets + 1) with inputs := .answer a :: ms' })
    hc hwait rfl

/-- Settles O19: nothing runs after reset and the font registers hold their reset values. -/
theorem resetHasTheInvariant : Obligations.ResetHasTheInvariant :=
  fun _ _ as ms n hc hm => resetWith_inv hc hm as ms n

/-! ## Every command ends in a next state -/

/-- Each of the three ways to start a command (R72) answers a next state. -/
theorem execute_answers (op : Byte) (legal : Bool) (body : State → State) (s : State) :
    ∃ t, execute op legal body s = .next t := by
  cases legal with
  | false => exact ⟨_, execute_illegal op body s⟩
  | true =>
    by_cases hs : s.session = .ready
    · exact ⟨_, execute_body rfl hs⟩
    · exact ⟨_, execute_preInit rfl hs⟩

/-- Settles O20: INIT runs its transactions, and every other command is `execute` of a body. -/
theorem everyCommandAnswersANextState : Obligations.EveryCommandAnswersANextState := by
  intro i s
  by_cases hi : i = .init
  · subst hi
    exact ⟨_, exec_init s⟩
  · obtain ⟨body, hexec, -⟩ := exec_eq_execute i hi
    rw [hexec]
    exact execute_answers ..

end Sys2Proof.Machine
end
